-- ==== Sys2Proof/Word.lean ====
section
/-! DEFINITION. The word types of the machine (00_scope.md rules R6, R10, R91): bytes, 16-bit words, register
numbers. Every value of the hardware is unsigned (rule R11). -/

namespace Sys2Proof

/-- A general register, a memory cell, a timer: 8 bits (R6 `REG_W`, `TIMER_W`). -/
abbrev Byte := BitVec 8

/-- The program counter, the index register, a stack entry, the key mask, an instruction word: 16 bits (R6). -/
abbrev Word := BitVec 16

/-- The 12-bit immediate `nnn` (R91). -/
abbrev Imm12 := BitVec 12

/-- A register number 0 to 15 (R21, R91 fields `x`, `y`). -/
abbrev Reg := Fin 16

/-- A 4-bit field read as a number 0 to 15 (R91 field `n`, and the nibbles the dispatch ignores, R97). -/
abbrev Nibble := Fin 16

/-- `VF` is `V[15]`, the only flag of the hardware (R21, R22). -/
abbrev VF : Reg := 15

end Sys2Proof
end

