-- ==== Sys2Proof/Syntax.lean ====
section
/-! DEFINITION. The syntax of the instruction set: one constructor per row of spec/opcode_table.json
(30_encoding.md rules R91, R93, R96). A constructor carries the fields the row uses as operands AND the fields the
dispatch ignores (rules R97, R98), so that no bit of a word is lost and decoding can be inverted; the meanings ignore
the ignored fields. -/

namespace Sys2Proof

/-- The 38 instructions of the opcode map (R96). -/
inductive Instr where
  /-- 00E0. `ign` is bits 11:8, which the dispatch ignores (R97). -/
  | cls (ign : Nibble)
  /-- 00EE. `ign` is bits 11:8, ignored (R97). -/
  | ret (ign : Nibble)
  /-- 0NNN, the machine-code escape: any class-0 word but CLS and RET. -/
  | sys (nnn : Imm12)
  /-- 1NNN. -/
  | jp (nnn : Imm12)
  /-- 2NNN. -/
  | call (nnn : Imm12)
  /-- 3XNN. -/
  | seB (x : Reg) (nn : Byte)
  /-- 4XNN. -/
  | sneB (x : Reg) (nn : Byte)
  /-- 5XY0. `ign` is bits 3:0, ignored (R97). -/
  | seV (x y : Reg) (ign : Nibble)
  /-- 6XNN. -/
  | ldB (x : Reg) (nn : Byte)
  /-- 7XNN. -/
  | addB (x : Reg) (nn : Byte)
  /-- 8XY0. -/
  | ldV (x y : Reg)
  /-- 8XY1. -/
  | orV (x y : Reg)
  /-- 8XY2. -/
  | andV (x y : Reg)
  /-- 8XY3. -/
  | xorV (x y : Reg)
  /-- 8XY4. -/
  | addV (x y : Reg)
  /-- 8XY5. -/
  | sub (x y : Reg)
  /-- 8XY6. -/
  | shr (x y : Reg)
  /-- 8XY7. -/
  | subn (x y : Reg)
  /-- 8XYE. -/
  | shl (x y : Reg)
  /-- The reserved words of class 8: `n` in 8 to D, or F; bits 11:4 are no operands (R98). -/
  | nop8 (x y : Nibble) (n : Nibble)
  /-- 9XY0. `ign` is bits 3:0, ignored (R97). -/
  | sneV (x y : Reg) (ign : Nibble)
  /-- ANNN. -/
  | ldI (nnn : Imm12)
  /-- BNNN / BXNN: the register number `x` is the top nibble of `nnn` (R93 `XNNN`). -/
  | jpV (nnn : Imm12)
  /-- CXNN. -/
  | rnd (x : Reg) (nn : Byte)
  /-- DXYN. -/
  | drw (x y : Reg) (n : Nibble)
  /-- EX9E. -/
  | skp (x : Reg)
  /-- EXA1. -/
  | sknp (x : Reg)
  /-- The reserved words of class E: `nn` other than 9E and A1 (R98). -/
  | nopE (x : Nibble) (nn : Byte)
  /-- FX07. -/
  | getDT (x : Reg)
  /-- FX0A. -/
  | key (x : Reg)
  /-- FX15. -/
  | setDT (x : Reg)
  /-- FX18. -/
  | setST (x : Reg)
  /-- FX1E. -/
  | addI (x : Reg)
  /-- FX29. -/
  | font (x : Reg)
  /-- FX33. -/
  | bcd (x : Reg)
  /-- FX55. -/
  | stm (x : Reg)
  /-- FX65. -/
  | ldm (x : Reg)
  /-- The reserved words of class F: `nn` other than the nine of R96 (R98). -/
  | nopF (x : Nibble) (nn : Byte)
  deriving DecidableEq, Repr

/-- The spec's mnemonic of each instruction (R96, R102), as spec/opcode_table.json spells it. -/
def Instr.mnemonic : Instr → String
  | .cls _ => "CLS" | .ret _ => "RET" | .sys _ => "SYS" | .jp _ => "JP" | .call _ => "CALL"
  | .seB _ _ => "SE.B" | .sneB _ _ => "SNE.B" | .seV _ _ _ => "SE.V" | .ldB _ _ => "LD.B"
  | .addB _ _ => "ADD.B" | .ldV _ _ => "LD.V" | .orV _ _ => "OR" | .andV _ _ => "AND" | .xorV _ _ => "XOR"
  | .addV _ _ => "ADD.V" | .sub _ _ => "SUB" | .shr _ _ => "SHR" | .subn _ _ => "SUBN" | .shl _ _ => "SHL"
  | .nop8 _ _ _ => "NOP.8" | .sneV _ _ _ => "SNE.V" | .ldI _ => "LD.I" | .jpV _ => "JP.V" | .rnd _ _ => "RND"
  | .drw _ _ _ => "DRW" | .skp _ => "SKP" | .sknp _ => "SKNP" | .nopE _ _ => "NOP.E" | .getDT _ => "GET.DT"
  | .key _ => "KEY" | .setDT _ => "SET.DT" | .setST _ => "SET.ST" | .addI _ => "ADD.I" | .font _ => "FONT"
  | .bcd _ => "BCD" | .stm _ => "STM" | .ldm _ => "LDM" | .nopF _ _ => "NOP.F"

/-- The operand shapes of R93. -/
inductive Format where
  | none | nnn | xnnn | xnn | xy | xyn | x
  deriving DecidableEq, Repr

/-- The operand shape of each instruction (R93, R96). -/
def Instr.format : Instr → Format
  | .cls _ | .ret _ => .none
  | .sys _ | .jp _ | .call _ | .ldI _ => .nnn
  | .jpV _ => .xnnn
  | .seB _ _ | .sneB _ _ | .ldB _ _ | .addB _ _ | .rnd _ _ => .xnn
  | .seV _ _ _ | .sneV _ _ _ | .ldV _ _ | .orV _ _ | .andV _ _ | .xorV _ _ | .addV _ _ | .sub _ _ | .shr _ _
  | .subn _ _ | .shl _ _ | .nop8 _ _ _ => .xy
  | .drw _ _ _ => .xyn
  | .skp _ | .sknp _ | .nopE _ _ | .getDT _ | .key _ | .setDT _ | .setST _ | .addI _ | .font _ | .bcd _ | .stm _
  | .ldm _ | .nopF _ _ => .x

end Sys2Proof
end

