-- ==== Sys2Proof/WellFormed.lean ====
section
/-! DEFINITION. Which terms of `Instr` are instructions: the catch-all rows of 30_encoding.md rule R96 (SYS, NOP.8,
NOP.E, NOP.F) stand only for the words that no specific row of their class takes (rules R98, R105). Every other term
is an instruction as it stands. -/

namespace Sys2Proof

/-- The low bytes of class 0 that select CLS and RET (R95, R96). -/
def isClass0Key (nn : Byte) : Bool := nn == 0xE0 || nn == 0xEE

/-- The last nibbles of class 8 that select one of its nine instructions (R96). -/
def isClass8Key (n : Nibble) : Bool := decide (n.val ≤ 7) || n.val == 0xE

/-- The low bytes of class E that select SKP and SKNP (R96). -/
def isClassEKey (nn : Byte) : Bool := nn == 0x9E || nn == 0xA1

/-- The low bytes of class F that select one of its nine instructions (R96). -/
def isClassFKey (nn : Byte) : Bool :=
  nn == 0x07 || nn == 0x0A || nn == 0x15 || nn == 0x18 || nn == 0x1E || nn == 0x29 || nn == 0x33 || nn == 0x55 ||
    nn == 0x65

/-- An instruction of the opcode map (R96, R98). -/
def Instr.wellFormed : Instr → Bool
  | .sys nnn => !isClass0Key (nnn.setWidth 8)
  | .nop8 _ _ n => !isClass8Key n
  | .nopE _ nn => !isClassEKey nn
  | .nopF _ nn => !isClassFKey nn
  | .cls _ | .ret _ | .jp _ | .call _ | .seB _ _ | .sneB _ _ | .seV _ _ _ | .ldB _ _ | .addB _ _ | .ldV _ _
  | .orV _ _ | .andV _ _ | .xorV _ _ | .addV _ _ | .sub _ _ | .shr _ _ | .subn _ _ | .shl _ _ | .sneV _ _ _
  | .ldI _ | .jpV _ | .rnd _ _ | .drw _ _ _ | .skp _ | .sknp _ | .getDT _ | .key _ | .setDT _ | .setST _
  | .addI _ | .font _ | .bcd _ | .stm _ | .ldm _ => true

/-- The spelling an assembler emits: the ignored nibble is 0 (R97, R102). -/
def Instr.canonical : Instr → Bool
  | .cls ign | .ret ign | .seV _ _ ign | .sneV _ _ ign => ign == 0
  | .sys _ | .nop8 _ _ _ | .nopE _ _ | .nopF _ _ | .jp _ | .call _ | .seB _ _ | .sneB _ _ | .ldB _ _ | .addB _ _
  | .ldV _ _ | .orV _ _ | .andV _ _ | .xorV _ _ | .addV _ _ | .sub _ _ | .shr _ _ | .subn _ _ | .shl _ _ | .ldI _
  | .jpV _ | .rnd _ _ | .drw _ _ _ | .skp _ | .sknp _ | .getDT _ | .key _ | .setDT _ | .setST _ | .addI _ | .font _
  | .bcd _ | .stm _ | .ldm _ => true

/-- The reserved words the hardware executes as no-ops (R98). -/
def Instr.isReservedNop : Instr → Bool
  | .nop8 _ _ _ | .nopE _ _ | .nopF _ _ => true
  | .cls _ | .ret _ | .sys _ | .jp _ | .call _ | .seB _ _ | .sneB _ _ | .seV _ _ _ | .ldB _ _ | .addB _ _ | .ldV _ _
  | .orV _ _ | .andV _ _ | .xorV _ _ | .addV _ _ | .sub _ _ | .shr _ _ | .subn _ _ | .shl _ _ | .sneV _ _ _
  | .ldI _ | .jpV _ | .rnd _ _ | .drw _ _ _ | .skp _ | .sknp _ | .getDT _ | .key _ | .setDT _ | .setST _
  | .addI _ | .font _ | .bcd _ | .stm _ | .ldm _ => false

end Sys2Proof
end

