-- ==== Sys2Proof/Decode.lean ====
section
/-! DEFINITION. Decoding and encoding (30_encoding.md rules R90 to R99, R102, R105). The decoder follows the
two-level dispatch of rule R95; the opcode table of rule R105 stands beside it as data; the encoder is written from
the column "encoding from operands" of rule R102. -/

namespace Sys2Proof

/-- `opClass = bits[15:12]` (R91). -/
def opClass (w : Word) : Nibble := (w.extractLsb' 12 4).toFin

/-- `x = bits[11:8]` (R91). -/
def fieldX (w : Word) : Nibble := (w.extractLsb' 8 4).toFin

/-- `y = bits[7:4]` (R91). -/
def fieldY (w : Word) : Nibble := (w.extractLsb' 4 4).toFin

/-- `n = bits[3:0]` (R91). -/
def fieldN (w : Word) : Nibble := (w.extractLsb' 0 4).toFin

/-- `nn = bits[7:0]` (R91). -/
def fieldNN (w : Word) : Byte := w.extractLsb' 0 8

/-- `nnn = bits[11:0]` (R91). -/
def fieldNNN (w : Word) : Imm12 := w.extractLsb' 0 12

/-- Class 0, keyed by `nn`; `x` plays no part (R95, R97). -/
def decodeClass0 (w : Word) : Instr :=
  if fieldNN w = 0xE0 then .cls (fieldX w)
  else if fieldNN w = 0xEE then .ret (fieldX w)
  else .sys (fieldNNN w)

/-- Class 8, keyed by `n` (R95, R96). -/
def decodeClass8 (w : Word) : Instr :=
  match (fieldN w).val with
  | 0x0 => .ldV (fieldX w) (fieldY w)
  | 0x1 => .orV (fieldX w) (fieldY w)
  | 0x2 => .andV (fieldX w) (fieldY w)
  | 0x3 => .xorV (fieldX w) (fieldY w)
  | 0x4 => .addV (fieldX w) (fieldY w)
  | 0x5 => .sub (fieldX w) (fieldY w)
  | 0x6 => .shr (fieldX w) (fieldY w)
  | 0x7 => .subn (fieldX w) (fieldY w)
  | 0xE => .shl (fieldX w) (fieldY w)
  | _ => .nop8 (fieldX w) (fieldY w) (fieldN w)

/-- Class E, keyed by `nn` (R95, R96). -/
def decodeClassE (w : Word) : Instr :=
  if fieldNN w = 0x9E then .skp (fieldX w)
  else if fieldNN w = 0xA1 then .sknp (fieldX w)
  else .nopE (fieldX w) (fieldNN w)

/-- Class F, keyed by `nn` (R95, R96). -/
def decodeClassF (w : Word) : Instr :=
  if fieldNN w = 0x07 then .getDT (fieldX w)
  else if fieldNN w = 0x0A then .key (fieldX w)
  else if fieldNN w = 0x15 then .setDT (fieldX w)
  else if fieldNN w = 0x18 then .setST (fieldX w)
  else if fieldNN w = 0x1E then .addI (fieldX w)
  else if fieldNN w = 0x29 then .font (fieldX w)
  else if fieldNN w = 0x33 then .bcd (fieldX w)
  else if fieldNN w = 0x55 then .stm (fieldX w)
  else if fieldNN w = 0x65 then .ldm (fieldX w)
  else .nopF (fieldX w) (fieldNN w)

/-- The instruction of a word: every word has one (R96, R99), and the configuration plays no part (R104). -/
def decode (w : Word) : Instr :=
  match (opClass w).val with
  | 0x0 => decodeClass0 w
  | 0x1 => .jp (fieldNNN w)
  | 0x2 => .call (fieldNNN w)
  | 0x3 => .seB (fieldX w) (fieldNN w)
  | 0x4 => .sneB (fieldX w) (fieldNN w)
  | 0x5 => .seV (fieldX w) (fieldY w) (fieldN w)
  | 0x6 => .ldB (fieldX w) (fieldNN w)
  | 0x7 => .addB (fieldX w) (fieldNN w)
  | 0x8 => decodeClass8 w
  | 0x9 => .sneV (fieldX w) (fieldY w) (fieldN w)
  | 0xA => .ldI (fieldNNN w)
  | 0xB => .jpV (fieldNNN w)
  | 0xC => .rnd (fieldX w) (fieldNN w)
  | 0xD => .drw (fieldX w) (fieldY w) (fieldN w)
  | 0xE => decodeClassE w
  | _ => decodeClassF w

/-- The 16-bit word of two bytes, the byte at the lower address in bits 15 to 8 (20_memory.md rule R61). -/
def wordOfBytes (hi lo : Byte) : Word := hi ++ lo

/-- Bits 15 to 8 of a word: its byte at the lower address (R61). -/
def highByte (w : Word) : Byte := w.extractLsb' 8 8

/-- Bits 7 to 0 of a word: its byte at the higher address (R61). -/
def lowByte (w : Word) : Byte := w.extractLsb' 0 8

/-- Why a sequence of bytes gives no instruction. -/
inductive DecodeError where
  /-- Fewer than the two bytes of an instruction (R90). No word of two bytes is refused (R99). -/
  | truncated
  deriving DecidableEq, Repr

/-- Decoding of bytes: the first instruction and the bytes after it (R61, R90). -/
def decodeBytes : List Byte → Except DecodeError (Instr × List Byte)
  | [] => .error .truncated
  | [_] => .error .truncated
  | hi :: lo :: rest => .ok (decode (wordOfBytes hi lo), rest)

/-- The word of an instruction, from its operands (R102; NOP.8, NOP.E and NOP.F, which have no spelling there, from
the layout of R91). -/
def encode : Instr → Word
  | .cls ign => .ofNat 16 (0x00E0 + ign.val * 256)
  | .ret ign => .ofNat 16 (0x00EE + ign.val * 256)
  | .sys nnn => .ofNat 16 (0x0000 + nnn.toNat)
  | .jp nnn => .ofNat 16 (0x1000 + nnn.toNat)
  | .call nnn => .ofNat 16 (0x2000 + nnn.toNat)
  | .seB x nn => .ofNat 16 (0x3000 + x.val * 256 + nn.toNat)
  | .sneB x nn => .ofNat 16 (0x4000 + x.val * 256 + nn.toNat)
  | .seV x y ign => .ofNat 16 (0x5000 + x.val * 256 + y.val * 16 + ign.val)
  | .ldB x nn => .ofNat 16 (0x6000 + x.val * 256 + nn.toNat)
  | .addB x nn => .ofNat 16 (0x7000 + x.val * 256 + nn.toNat)
  | .ldV x y => .ofNat 16 (0x8000 + x.val * 256 + y.val * 16 + 0)
  | .orV x y => .ofNat 16 (0x8000 + x.val * 256 + y.val * 16 + 1)
  | .andV x y => .ofNat 16 (0x8000 + x.val * 256 + y.val * 16 + 2)
  | .xorV x y => .ofNat 16 (0x8000 + x.val * 256 + y.val * 16 + 3)
  | .addV x y => .ofNat 16 (0x8000 + x.val * 256 + y.val * 16 + 4)
  | .sub x y => .ofNat 16 (0x8000 + x.val * 256 + y.val * 16 + 5)
  | .shr x y => .ofNat 16 (0x8000 + x.val * 256 + y.val * 16 + 6)
  | .subn x y => .ofNat 16 (0x8000 + x.val * 256 + y.val * 16 + 7)
  | .shl x y => .ofNat 16 (0x8000 + x.val * 256 + y.val * 16 + 0xE)
  | .nop8 x y n => .ofNat 16 (0x8000 + x.val * 256 + y.val * 16 + n.val)
  | .sneV x y ign => .ofNat 16 (0x9000 + x.val * 256 + y.val * 16 + ign.val)
  | .ldI nnn => .ofNat 16 (0xA000 + nnn.toNat)
  | .jpV nnn => .ofNat 16 (0xB000 + nnn.toNat)
  | .rnd x nn => .ofNat 16 (0xC000 + x.val * 256 + nn.toNat)
  | .drw x y n => .ofNat 16 (0xD000 + x.val * 256 + y.val * 16 + n.val)
  | .skp x => .ofNat 16 (0xE09E + x.val * 256)
  | .sknp x => .ofNat 16 (0xE0A1 + x.val * 256)
  | .nopE x nn => .ofNat 16 (0xE000 + x.val * 256 + nn.toNat)
  | .getDT x => .ofNat 16 (0xF007 + x.val * 256)
  | .key x => .ofNat 16 (0xF00A + x.val * 256)
  | .setDT x => .ofNat 16 (0xF015 + x.val * 256)
  | .setST x => .ofNat 16 (0xF018 + x.val * 256)
  | .addI x => .ofNat 16 (0xF01E + x.val * 256)
  | .font x => .ofNat 16 (0xF029 + x.val * 256)
  | .bcd x => .ofNat 16 (0xF033 + x.val * 256)
  | .stm x => .ofNat 16 (0xF055 + x.val * 256)
  | .ldm x => .ofNat 16 (0xF065 + x.val * 256)
  | .nopF x nn => .ofNat 16 (0xF000 + x.val * 256 + nn.toNat)

/-- The bytes of an instruction in memory, lowest address first (R61). -/
def encodeBytes (i : Instr) : List Byte := [highByte (encode i), lowByte (encode i)]

/-- A row of the opcode table (R105): a word `w` matches when `w & mask = pattern`. -/
structure OpcodeRow where
  mnemonic : String
  pattern : Word
  mask : Word
  deriving DecidableEq, Repr

/-- Rows 1 to 10 of the opcode table, in priority order (R105). -/
def opcodeTableA : List OpcodeRow :=
  [⟨"CLS", 0x00E0, 0xF0FF⟩, ⟨"RET", 0x00EE, 0xF0FF⟩, ⟨"SYS", 0x0000, 0xF000⟩, ⟨"JP", 0x1000, 0xF000⟩,
   ⟨"CALL", 0x2000, 0xF000⟩, ⟨"SE.B", 0x3000, 0xF000⟩, ⟨"SNE.B", 0x4000, 0xF000⟩, ⟨"SE.V", 0x5000, 0xF000⟩,
   ⟨"LD.B", 0x6000, 0xF000⟩, ⟨"ADD.B", 0x7000, 0xF000⟩]

/-- Rows 11 to 25. -/
def opcodeTableB : List OpcodeRow :=
  [⟨"LD.V", 0x8000, 0xF00F⟩, ⟨"OR", 0x8001, 0xF00F⟩, ⟨"AND", 0x8002, 0xF00F⟩, ⟨"XOR", 0x8003, 0xF00F⟩,
   ⟨"ADD.V", 0x8004, 0xF00F⟩, ⟨"SUB", 0x8005, 0xF00F⟩, ⟨"SHR", 0x8006, 0xF00F⟩, ⟨"SUBN", 0x8007, 0xF00F⟩,
   ⟨"SHL", 0x800E, 0xF00F⟩, ⟨"NOP.8", 0x8000, 0xF000⟩, ⟨"SNE.V", 0x9000, 0xF000⟩, ⟨"LD.I", 0xA000, 0xF000⟩,
   ⟨"JP.V", 0xB000, 0xF000⟩, ⟨"RND", 0xC000, 0xF000⟩, ⟨"DRW", 0xD000, 0xF000⟩]

/-- Rows 26 to 38. -/
def opcodeTableC : List OpcodeRow :=
  [⟨"SKP", 0xE09E, 0xF0FF⟩, ⟨"SKNP", 0xE0A1, 0xF0FF⟩, ⟨"NOP.E", 0xE000, 0xF000⟩, ⟨"GET.DT", 0xF007, 0xF0FF⟩,
   ⟨"KEY", 0xF00A, 0xF0FF⟩, ⟨"SET.DT", 0xF015, 0xF0FF⟩, ⟨"SET.ST", 0xF018, 0xF0FF⟩, ⟨"ADD.I", 0xF01E, 0xF0FF⟩,
   ⟨"FONT", 0xF029, 0xF0FF⟩, ⟨"BCD", 0xF033, 0xF0FF⟩, ⟨"STM", 0xF055, 0xF0FF⟩, ⟨"LDM", 0xF065, 0xF0FF⟩,
   ⟨"NOP.F", 0xF000, 0xF000⟩]

/-- The opcode table (R105), a list of rows in priority order. -/
def opcodeTable : List OpcodeRow := opcodeTableA ++ opcodeTableB ++ opcodeTableC

/-- The mnemonic of the first row that matches the word (R105). -/
def tableMnemonic (w : Word) : Option String :=
  (opcodeTable.find? fun r => w &&& r.mask == r.pattern).map (·.mnemonic)

/-- The bytes of a table word as the hardware stores them: the first word's high byte at the lowest address (R61);
the bits above `nbits` are 0. -/
def tableWord (nbits w : Nat) : Word := .ofNat 16 (w % 2 ^ nbits)

/-- What the decoder reads from an instruction whose bits are `w`, numbered as spec/opcode_table.json numbers them. -/
def decodeTableWord (nbits w : Nat) : Option Instr :=
  match decodeBytes [highByte (tableWord nbits w), lowByte (tableWord nbits w)] with
  | .ok (i, _) => some i
  | .error _ => none

end Sys2Proof
end

