-- ==== Sys2Proof/Config.lean ====
section
/-! DEFINITION. What an implementation fixes: the sizes of 00_scope.md rule R6, the configuration record `CFG`
of rule R8 and 10_state.md rule R40, and the FREE VALUES of rule R9, which the spec leaves open. A free value is a
constant with no body: no proof can see what it is. -/

namespace Sys2Proof

/-- `MEM_SIZE` of R6: bytes of memory, addresses 0x000 to 0xFFF. -/
abbrev memSize : Nat := 4096

/-- The size of `FONT_DATA`: `FONT_GLYPHS` * `GLYPH_BYTES` of R6. -/
abbrev fontSize : Nat := 80

/-- `CFG`, the configuration register (R8, R40): an input, set by the host before reset is released and constant
for the run. The machine carries it in `State.cfg` so that one `step` covers every configuration. -/
structure Cfg where
  /-- "shift/BNNN/FX1E/FX55/FX65 follow original hardware quirks" (R8). -/
  strictCosmac : Bool
  /-- "takes precedence over strictCosmac for BNNN"; also cancels the FX55/FX65 index increment (R8, R104). -/
  romCompatibility : Bool
  /-- A self-targeting 1NNN ends the run cleanly (R8, R122). -/
  endOnInfiniteLoop : Bool
  /-- Trace output only; no effect on any state (R8, R260). -/
  debug : Bool
  /-- `FONT_BASE`, where the font table starts (R8). -/
  fontBase : Word
  /-- `ROM_BASE`, where the program image starts and what `pc` is at reset (R8, R24). -/
  romBase : Word
  deriving DecidableEq, Repr

/-- The configuration of `State.reset`. `FONT_BASE` 0x050 and `ROM_BASE` 0x200 are the spec's default and standard
values (R8). DESIGN CHOICE (notes/assumptions/2): the spec gives no default for the four flags (91 N6); these are the
ones 95_test_vectors.md assumes. -/
def Cfg.standard : Cfg :=
  { strictCosmac := false, romCompatibility := false, endOnInfiniteLoop := true, debug := false,
    fontBase := 0x050, romBase := 0x200 }

/-- The configuration cancels no quirk of FX55/FX65: strict-COSMAC mode without ROM-compat mode (R104). -/
def Cfg.incrementsIndex (c : Cfg) : Bool := c.strictCosmac && !c.romCompatibility

/-- What 00_scope.md rule R8 and 70_reset_and_hazards.md rule R283 require of a launch with an image of `len` bytes:
the font and the image lie inside memory. -/
def Cfg.admits (c : Cfg) (len : Nat) : Bool :=
  decide (c.fontBase.toNat + fontSize ≤ memSize) && decide (c.romBase.toNat + len ≤ memSize)

/-- FREE VALUE `random_byte` (R9, R154): the byte of the `k`-th draw, "any byte, every time". -/
opaque Config.randomByte : Nat → Byte

/-- FREE VALUE `SOUND_REMAP` (R9, R206): a total function from bytes to bytes of which nothing is assumed. -/
opaque Config.soundRemap : Byte → Byte

/-- FREE VALUE `FINAL_PUSH_SCREEN` (R9, R231): whether the final message of a clean shutdown carries the bitmap
(`true`) or null (`false`). -/
opaque Config.finalPushCarriesScreen : Bool

/-- FREE VALUE `FONT_DATA` (R9, R282): the 80 font bytes, glyph `g` at bytes `5*g` to `5*g + 4`. -/
opaque Config.fontData : Fin 80 → Byte

/-- FREE VALUE `SENTINEL` (10_state.md rule R34): what `Pop` on an empty stack returns; the source gives no value and
no rule uses it. -/
opaque Config.sentinel : Word

/-- One atomic step of one of the three agents of 60_exceptions.md rule R235. -/
inductive Machine.Turn where
  /-- The engine runs one instruction. -/
  | engine
  /-- The Timer Subsystem ticks once (R241). -/
  | tick
  /-- The Key Listener receives one key message, of any length (R245, R246). -/
  | keyMessage (bytes : List Byte)
  deriving DecidableEq, Repr

/-- FREE VALUE (60_exceptions.md rule R236, notes/assumptions/1): the turns taken, in the `k`-th round of turns, before
an engine step that the round holds for certain. Any turns, any number of them, zero included. -/
opaque Config.turnsBeforeEngine : Nat → List Machine.Turn

/-- FREE VALUE (R236, notes/assumptions/1): the turns taken in the `k`-th round between that engine step and the tick
that ends the round. Any turns, any number of them, zero included. -/
opaque Config.turnsBeforeTick : Nat → List Machine.Turn

end Sys2Proof
end

