-- ==== Sys2Proof/Machine/State.lean ====
section
/-! DEFINITION. The state of the machine (10_state.md rules R20 to R49), as plain data, its reset value, and the
reasons a step can stop. The fields of the spec come first; the three fields the model adds for itself
(`schedule`, `rounds`, `draws`) stand last and are marked. -/

namespace Sys2Proof.Machine

/-- `memory` as a list of the bytes that differ from the reset image, in one canonical form (`Memory.wf`). -/
abbrev Memory := List Host.Cell

/-- `screen`: 32 rows of 64 one-bit pixels, the top row first (R37). Column `cx` of a row is its bit `63 - cx`, so
that the leftmost pixel is the most significant bit, as in a packed message (R254). -/
abbrev Screen := Vector (BitVec 64) 32

/-- The values of `RUN` (R41). -/
inductive RunState where
  | running | haltedOk | haltedFatal
  deriving DecidableEq, Repr

/-- The six conditions of R220. -/
inductive Condition where
  | stackOverflow | stackUnderflow | machineCodeUnsupported | outOfBoundsFetch | peripheralTransportFailure
  | malformedKeyDatagram
  deriving DecidableEq, Repr

/-- The codes R220 gives the conditions. -/
def Condition.code : Condition → Nat
  | .stackOverflow => 1 | .stackUnderflow => 2 | .machineCodeUnsupported => 3 | .outOfBoundsFetch => 4
  | .peripheralTransportFailure => 5 | .malformedKeyDatagram => 6

/-- `HALT_INFO` (R43): the condition, the fetch address and, for `MachineCodeUnsupported`, the instruction word. -/
structure HaltInfo where
  cond : Condition
  addr : Word
  word : Option Word
  deriving DecidableEq, Repr

/-- The values of `LISTENER` (R44). -/
inductive Listener where
  | alive | dead
  deriving DecidableEq, Repr

/-- A message of the outbound port: the five fields of R251. `screen` is null or the 256 packed bytes of R254. -/
structure Message where
  sound : Bool
  keys : Word
  screen : Option (List Byte)
  screenWidth : Byte
  screenHeight : Byte
  deriving DecidableEq, Repr

/-- The machine state (R20). -/
structure State where
  /-- `V0` to `VF` (R21). -/
  regs : Vector Byte 16
  /-- `pc`, the address of the next instruction to fetch (R23). -/
  pc : Word
  /-- `index`, written `I` (R27). -/
  index : Word
  /-- `memory` (R29): what differs from the reset image. -/
  mem : Memory
  /-- The 12 entries of the call stack (R30). -/
  stack : Vector Word 12
  /-- `sp`, the number of valid entries, 0 to 12 (R30, R31). -/
  sp : Fin 13
  /-- `delayTimer` (R35). -/
  delayTimer : Byte
  /-- `soundTimer` (R36). -/
  soundTimer : Byte
  /-- `screen` (R37). -/
  screen : Screen
  /-- `keyState`, bit `k` for key `k`, 1 = pressed (R38). -/
  keyState : Word
  /-- `soundState`, the last pushed sound value (R39). -/
  soundState : Bool
  /-- `CFG` (R40): read-only to the machine. -/
  cfg : Cfg
  /-- `RUN` (R41). -/
  run : RunState
  /-- `ERR` (R42): bit 0 stack overflow, bit 1 stack underflow, sticky. -/
  err : BitVec 2
  /-- `HALT_INFO` (R43). -/
  haltInfo : Option HaltInfo
  /-- `LISTENER` (R44). -/
  listener : Listener
  /-- `OUT` (R45): the messages sent, oldest first. -/
  out : List Message
  /-- THE MODEL'S OWN (notes/assumptions/1): the agents' next steps, the first one first. When it is empty the next
  round of turns comes from a free value (`turnRound`). -/
  schedule : List Turn
  /-- THE MODEL'S OWN (notes/assumptions/1): how many rounds of turns have been drawn; the free values
  `Config.turnsBeforeEngine` and `Config.turnsBeforeTick` are applied to it. -/
  rounds : Nat
  /-- THE MODEL'S OWN (notes/assumptions/3): how many random bytes have been drawn; the free value
  `Config.randomByte` is applied to it. -/
  draws : Nat
  deriving DecidableEq, Repr

/-- Why a step stops. -/
inductive Fault where
  /-- Raised by `step` when `RUN` is `HALTED_OK`: the run has ended well and no agent has a step (R223, R288 (a)).
  Safe: the hardware does nothing more either. -/
  | haltedOk
  /-- Raised by `step` when `RUN` is `HALTED_FATAL`: no agent has a step, and the end is never a good one (R223,
  R288 (b)). Safe: the hardware does nothing more either. -/
  | haltedFatal
  deriving DecidableEq, Repr

/-- Why an instruction has no meaning. -/
inductive Refusal where
  /-- Raised by an arm of `exec` for an instruction without a meaning; no arm does so in this model. Safe. -/
  | notModelled (mnemonic : String)
  deriving DecidableEq, Repr

/-- The state after reset under a configuration, with no program image loaded (R49, R280): what 10_state.md rule R49
lists; memory is the reset image, so nothing is listed. -/
def State.resetWith (cfg : Cfg) : State :=
  { regs := Vector.replicate 16 0, pc := cfg.romBase, index := 0, mem := [], stack := Vector.replicate 12 0, sp := 0,
    delayTimer := 0, soundTimer := 0, screen := Vector.replicate 32 0, keyState := 0, soundState := false, cfg := cfg,
    run := .running, err := 0, haltInfo := none, listener := .alive, out := [], schedule := [], rounds := 0,
    draws := 0 }

/-- The machine right after reset (R49) under the configuration `Cfg.standard` (notes/assumptions/2). -/
def State.reset : State := State.resetWith Cfg.standard

end Sys2Proof.Machine
end

