-- ==== Sys2Proof/Machine/Screen.lean ====
section
/-! DEFINITION. The Screen Buffer (10_state.md rule R37): reading and writing one pixel, the sprite draw of
43_display.md rule R191, and the packing of 60_exceptions.md rule R254. -/

namespace Sys2Proof.Machine

/-- Every pixel unset. -/
def Screen.clear : Screen := Vector.replicate 32 0

/-- `Pix(cx, cy)` (R12); unset outside the 64 by 32 grid, where no pixel exists. -/
def Screen.pix (scr : Screen) (cx cy : Nat) : Bool :=
  if h : cy < 32 then (scr[cy]).getMsbD cx else false

/-- A row with its pixel in column `cx` set to `b`. -/
def rowSet (row : BitVec 64) (cx : Nat) (b : Bool) : BitVec 64 :=
  if b then row ||| BitVec.twoPow 64 (63 - cx) else row &&& ~~~(BitVec.twoPow 64 (63 - cx))

/-- `Pix(cx, cy) <- b` (R12); nothing outside the grid. -/
def Screen.setPix (scr : Screen) (cx cy : Nat) (b : Bool) : Screen :=
  if h : cx < 64 ∧ cy < 32 then scr.set cy (rowSet scr[cy] cx b) h.2 else scr

/-- The screen while a sprite is drawn: the pixels, and whether one of them has gone from set to unset (R191). -/
structure Canvas where
  screen : Screen
  hit : Bool
  deriving DecidableEq, Repr

/-- One sprite bit at `(cx, cy)`: XOR and collision on the screen, dropped outside it (R191, the innermost lines). -/
def Canvas.drawBit (c : Canvas) (cx cy : Nat) (bit : Bool) : Canvas :=
  if cx ≤ 63 ∧ cy ≤ 31 then
    let old := c.screen.pix cx cy
    { screen := c.screen.setPix cx cy (old ^^ bit), hit := c.hit || (old && bit) }
  else c

/-- One sprite row: bits 7 to 0 of `b` go to columns `ox` to `ox + 7` of row `cy` (R191, the loop over `col`). -/
def Canvas.drawRow (c : Canvas) (ox cy : Nat) (b : Byte) : Canvas :=
  (List.range 8).foldl (fun c col => c.drawBit (ox + col) cy (b.getLsbD (7 - col))) c

/-- The sprite rows from row `cy` of the screen down (R191, the loop over `row`). -/
def Canvas.drawRows (ox : Nat) : Nat → List Byte → Canvas → Canvas
  | _, [], c => c
  | cy, b :: bs, c => Canvas.drawRows ox (cy + 1) bs (c.drawRow ox cy b)

/-- The 8 bytes of a screen row, leftmost first (R254). -/
def rowBytes (row : BitVec 64) : List Byte := (List.range 8).map fun j => row.extractLsb' (56 - 8 * j) 8

/-- The packed screen: 256 bytes, row-major, most significant bit first (R254). -/
def Screen.pack (scr : Screen) : List Byte := scr.toList.flatMap rowBytes

end Sys2Proof.Machine
end

