-- ==== Sys2Proof/Machine/Ops.lean ====
section
/-! DEFINITION. The shared operations over the state: memory, registers, the call stack, the reports, the fatal
entry, the clean shutdown and the outbound port. Every meaning is written over these. -/

namespace Sys2Proof.Machine

/-! ### Memory (10_state.md rule R29, 20_memory.md) -/

/-- The byte at an address that nothing has written since reset: the font at `FONT_BASE`, 0x00 elsewhere (R67,
R281). The program image is written on top of it (`State.loadBytes`). -/
def resetByte (fontBase : Word) (a : Nat) : Byte :=
  if h : fontBase.toNat ≤ a ∧ a < fontBase.toNat + 80 then Config.fontData ⟨a - fontBase.toNat, by omega⟩ else 0

/-- The listed byte of an address. -/
def Memory.lookup : Memory → Nat → Option Byte
  | [], _ => none
  | (k, v) :: m, a => if k = a then some v else Memory.lookup m a

/-- The byte at an address: the listed one, else the reset image's. -/
def Memory.read (dflt : Nat → Byte) (m : Memory) (a : Nat) : Byte := (Memory.lookup m a).getD (dflt a)

/-- List a byte at its place in the order of addresses. -/
def Memory.put : Memory → Nat → Byte → Memory
  | [], a, v => [(a, v)]
  | (k, w) :: m, a, v =>
    if a < k then (a, v) :: (k, w) :: m else if a = k then (a, v) :: m else (k, w) :: Memory.put m a v

/-- Take an address out of the list. -/
def Memory.erase (m : Memory) (a : Nat) : Memory := m.filter fun c => c.1 != a

/-- Write a byte and keep the canonical form: the value of the reset image is not listed. -/
def Memory.write (dflt : Nat → Byte) (m : Memory) (a : Nat) (v : Byte) : Memory :=
  if v = dflt a then Memory.erase m a else Memory.put m a v

/-- The canonical form: addresses of memory, strictly rising, no entry equal to the reset image. -/
def Memory.wf (dflt : Nat → Byte) (m : Memory) : Bool :=
  decide (m.Pairwise fun c d => c.1 < d.1) && m.all fun c => decide (c.1 < memSize) && !(c.2 == dflt c.1)

/-! ### One field at a time -/

/-- `V[r]` (R12, R21). -/
def State.V (s : State) (r : Reg) : Byte := s.regs[r.val]

/-- `V[r] <- v` (R12, R21). -/
def State.setV (s : State) (r : Reg) (v : Byte) : State := { s with regs := s.regs.set r.val v r.isLt }

/-- `pc <- v` (R12). -/
def State.setPc (s : State) (v : Word) : State := { s with pc := v }

/-- `I <- v` (R12). -/
def State.setIndex (s : State) (v : Word) : State := { s with index := v }

/-- Replace the list of memory bytes. -/
def State.setMem (s : State) (m : Memory) : State := { s with mem := m }

/-- Replace the call stack and its cursor. -/
def State.setStack (s : State) (st : Vector Word 12) (sp : Fin 13) : State := { s with stack := st, sp := sp }

/-- `delayTimer <- v`. -/
def State.setDelayTimer (s : State) (v : Byte) : State := { s with delayTimer := v }

/-- `soundTimer <- v`. -/
def State.setSoundTimer (s : State) (v : Byte) : State := { s with soundTimer := v }

/-- Replace the screen. -/
def State.setScreen (s : State) (scr : Screen) : State := { s with screen := scr }

/-- `keyState <- v`. -/
def State.setKeyState (s : State) (v : Word) : State := { s with keyState := v }

/-- `soundState <- v`. -/
def State.setSoundState (s : State) (v : Bool) : State := { s with soundState := v }

/-- `RUN <- v`. -/
def State.setRun (s : State) (v : RunState) : State := { s with run := v }

/-- `ERR <- v`. -/
def State.setErr (s : State) (v : BitVec 2) : State := { s with err := v }

/-- `HALT_INFO <- v`. -/
def State.setHaltInfo (s : State) (v : Option HaltInfo) : State := { s with haltInfo := v }

/-- `LISTENER <- v`. -/
def State.setListener (s : State) (v : Listener) : State := { s with listener := v }

/-- Replace the outbound log. -/
def State.setOut (s : State) (v : List Message) : State := { s with out := v }

/-- The agents' next steps (notes/assumptions/1). -/
def State.setSchedule (s : State) (v : List Turn) : State := { s with schedule := v }

/-- The number of rounds of turns drawn (notes/assumptions/1). -/
def State.setRounds (s : State) (v : Nat) : State := { s with rounds := v }

/-- The number of bytes drawn (notes/assumptions/3). -/
def State.setDraws (s : State) (v : Nat) : State := { s with draws := v }

/-! ### Memory accesses of the machine -/

/-- The byte `memory[a]`. -/
def State.byteAt (s : State) (a : Nat) : Byte := Memory.read (resetByte s.cfg.fontBase) s.mem a

/-- `memory[a] <- v`. -/
def State.writeByte (s : State) (a : Nat) (v : Byte) : State :=
  s.setMem (Memory.write (resetByte s.cfg.fontBase) s.mem a v)

/-- The data effective address `(I + offset) mod 4096` (20_memory.md rule R66). -/
def State.dataAddr (s : State) (offset : Nat) : Nat := (s.index.toNat + offset) % memSize

/-- `MemRead(I + offset, 1)` (R12, R66): it never fails. -/
def State.readData (s : State) (offset : Nat) : Byte := s.byteAt (s.dataAddr offset)

/-- `MemWrite(I + offset, 1, v)` (R12, R66): it never fails. -/
def State.writeData (s : State) (offset : Nat) (v : Byte) : State := s.writeByte (s.dataAddr offset) v

/-- `MemRead(pc, 2)` of the fetch (20_memory.md rule R62): big-endian, no wrap; `none` where the rule raises
`OutOfBoundsFetch`. -/
def State.fetch (s : State) : Option Word :=
  if s.pc.toNat > 0xFFE then none
  else some (wordOfBytes (s.byteAt s.pc.toNat) (s.byteAt (s.pc.toNat + 1)))

/-- Write successive bytes from address `a` up: the program image of R281. -/
def State.loadBytes : Nat → List Byte → State → State
  | _, [], s => s
  | a, b :: bs, s => State.loadBytes (a + 1) bs (s.writeByte a b)

/-- Store a word at `pc`, its high byte at the lower address (R61), where the fetch of `pc` succeeds. -/
def State.placeWord (s : State) (w : Word) : State :=
  if s.pc.toNat > 0xFFE then s
  else (s.writeByte s.pc.toNat (highByte w)).writeByte (s.pc.toNat + 1) (lowByte w)

/-! ### Program counter -/

/-- Step 3 of the prologue: `pc <- pc + 2` (30_encoding.md rule R92). -/
def State.advance (s : State) : State := s.setPc (s.pc + 2)

/-- "if the condition holds then `pc <- pc + 2`": the skip of R124 to R127, R201, R202 (R129). -/
def State.skipIf (s : State) (cond : Bool) : State := if cond then s.setPc (s.pc + 2) else s

/-- The fetch address of the instruction being executed: `pc` already holds it plus 2 (R14, R92). -/
def State.fetchAddr (s : State) : Word := s.pc - 2

/-! ### Flag -/

/-- Write a result and then its flag to `VF`, in this order (41_alu.md rule R140): with `r = VF` the flag is what
stays. -/
def State.setVFlag (s : State) (r : Reg) (v flag : Byte) : State := (s.setV r v).setV VF flag

/-! ### Conditions (60_exceptions.md rules R220 to R224) -/

/-- The bit of `ERR` that a report sets (R42); the conditions that are not reported set none. -/
def Condition.errBit : Condition → BitVec 2
  | .stackOverflow => 1
  | .stackUnderflow => 2
  | .machineCodeUnsupported | .outOfBoundsFetch | .peripheralTransportFailure | .malformedKeyDatagram => 0

/-- `report C` (R224): set the sticky bit of `ERR`; execution goes on. -/
def State.report (s : State) (c : Condition) : State := s.setErr (s.err ||| c.errBit)

/-- TAKING AN EXCEPTION: the fatal entry `raise C(info)` (R222) records the condition and halts; no state is saved
anywhere else and control goes nowhere. -/
def State.raise (s : State) (c : Condition) (addr : Word) (word : Option Word) : State :=
  (s.setHaltInfo (some ⟨c, addr, word⟩)).setRun .haltedFatal

/-! ### Call stack (10_state.md rules R33, R34) -/

/-- `Push(v)` (R33). -/
def State.push (s : State) (v : Word) : State :=
  if h : s.sp.val = 12 then s.report .stackOverflow
  else s.setStack (s.stack.set s.sp.val v (by have := s.sp.isLt; omega)) ⟨s.sp.val + 1, by have := s.sp.isLt; omega⟩

/-- `Pop()` (R34): the state after it, whether it succeeded, and the value; the slot it leaves keeps its value
(R32). -/
def State.pop (s : State) : State × Bool × Word :=
  if h : s.sp.val = 0 then (s.report .stackUnderflow, false, Config.sentinel)
  else
    (s.setStack s.stack ⟨s.sp.val - 1, by have := s.sp.isLt; omega⟩, true,
      s.stack[s.sp.val - 1]'(by have := s.sp.isLt; omega))

/-! ### Outbound port (60_exceptions.md rules R250 to R255) -/

/-- `Emit(m)` (R250): append to `OUT`. -/
def State.emit (s : State) (m : Message) : State := s.setOut (s.out ++ [m])

/-- A message of the present state with the given screen field (R251). -/
def State.message (s : State) (screen : Option (List Byte)) : Message :=
  { sound := s.soundState, keys := s.keyState, screen := screen, screenWidth := 64, screenHeight := 32 }

/-- `ScreenMsg()` (R252). -/
def State.screenMsg (s : State) : Message := s.message (some s.screen.pack)

/-- `SoundMsg()` (R253). -/
def State.soundMsg (s : State) : Message := s.message none

/-- `FinalMsg()` (R231): its screen field is the free value `FINAL_PUSH_SCREEN`. -/
def State.finalMsg (s : State) : Message :=
  s.message (if Config.finalPushCarriesScreen then some s.screen.pack else none)

/-! ### Clean shutdown (60_exceptions.md rule R231) -/

/-- The state of which the final message is taken: keys zeroed, sound off (R231, its first two lines). -/
def State.quiesce (s : State) : State := (s.setKeyState 0).setSoundState false

/-- `halt_clean` (R231). -/
def State.haltClean (s : State) : State := (s.quiesce.emit s.quiesce.finalMsg).setRun .haltedOk

/-! ### Random port (41_alu.md rule R154) -/

/-- `draw_byte()`: the byte of this draw. -/
def State.drawnByte (s : State) : Byte := Config.randomByte s.draws

/-- The state after a draw: the next one is a fresh value. -/
def State.nextDraw (s : State) : State := s.setDraws (s.draws + 1)

end Sys2Proof.Machine
end

