-- ==== Sys2Proof/Machine/Operands.lean ====
section
/-! DEFINITION. The operand forms that depend on the configuration or on a shared scalar: the shift source, the jump
offset register, the key lookup, the glyph address, the decimal digits. -/

namespace Sys2Proof.Machine

/-- A 12-bit immediate as a 16-bit address (30_encoding.md rule R94). -/
def zext16 (nnn : Imm12) : Word := nnn.setWidth 16

/-- The value SHR and SHL shift: `V[y]` in strict-COSMAC mode, else `V[x]` (R104, R150, R152). -/
def State.shiftSource (s : State) (x y : Reg) : Byte := if s.cfg.strictCosmac then s.V y else s.V x

/-- The register number in bits 11:8 of a BNNN word: the top nibble of `nnn` (R94, R128). -/
def topNibble (nnn : Imm12) : Reg := (nnn.extractLsb' 8 4).toFin

/-- The register JP.V adds: V0 if either mode flag is set, else the one `nnn`'s top nibble names (R104, R128). -/
def State.jumpReg (s : State) (nnn : Imm12) : Reg :=
  if s.cfg.strictCosmac || s.cfg.romCompatibility then 0 else topNibble nnn

/-- `Key(k)` (44_keys_timers.md rule R200): bit `k` of `keyState`; a key number above 15 is not pressed. -/
def State.keyPressed (s : State) (k : Byte) : Bool := if k.toNat ≤ 15 then s.keyState.getLsbD k.toNat else false

/-- The least `k` in 0 to 15 whose bit of the mask is set (R203); 0 for the empty mask, which R203 does not ask. -/
def lowestKey (mask : Word) : Nat := ((List.range 16).find? fun k => mask.getLsbD k).getD 0

/-- The exact sum `I + V[x]` of ADD.I, `I` taken as its full 16-bit value (R172). -/
def State.indexSum (s : State) (x : Reg) : Nat := s.index.toNat + (s.V x).toNat

/-- The address of a glyph: `(FONT_BASE + 5 * g) mod 65536` (R173). -/
def State.glyphAddr (s : State) (g : Byte) : Word := .ofNat 16 (s.cfg.fontBase.toNat + 5 * g.toNat)

/-- Hundreds, tens and ones of a byte (R174). -/
def hundreds (v : Byte) : Byte := .ofNat 8 (v.toNat / 100)
def tens (v : Byte) : Byte := .ofNat 8 (v.toNat / 10 % 10)
def ones (v : Byte) : Byte := .ofNat 8 (v.toNat % 10)

/-- The index after STM or LDM with last register `x`: incremented by the count `x + 1` modulo 65536 in
strict-COSMAC mode without ROM-compat mode, else left (R104, R175, R176). -/
def State.indexAfterBlock (s : State) (x : Reg) : Word :=
  if s.cfg.incrementsIndex then s.index + .ofNat 16 (x.val + 1) else s.index

/-- The origin of a sprite: `V[x] mod 64`, `V[y] mod 32` (R191). -/
def State.originX (s : State) (x : Reg) : Nat := (s.V x).toNat % 64
def State.originY (s : State) (y : Reg) : Nat := (s.V y).toNat % 32

/-- The `n` bytes of a sprite, row 0 first (R191, R64). -/
def State.spriteBytes (s : State) (n : Nibble) : List Byte := (List.range n.val).map s.readData

end Sys2Proof.Machine
end

