-- ==== Sys2Proof/Machine/KeysTimers.lean ====
section
/-! DEFINITION. Key, timer and sound instructions (44_keys_timers.md rules R200 to R208). -/

namespace Sys2Proof.Machine

/-- Send `SoundMsg()` of the present state (R253). -/
def State.pushSound (s : State) : State := s.emit s.soundMsg

/-- SKP, EX9E (R201). -/
def execSkp (x : Reg) (s : State) : Host.Outcome State Fault Refusal := .next (s.skipIf (s.keyPressed (s.V x)))

/-- SKNP, EXA1 (R202). -/
def execSknp (x : Reg) (s : State) : Host.Outcome State Fault Refusal := .next (s.skipIf (!s.keyPressed (s.V x)))

/-- NOP.E, the reserved words of class E (R207, R98): nothing but the prologue. -/
def execNopE (s : State) : Host.Outcome State Fault Refusal := .next s

/-- GET.DT, FX07 (R204). -/
def execGetDT (x : Reg) (s : State) : Host.Outcome State Fault Refusal := .next (s.setV x s.delayTimer)

/-- KEY, FX0A (R203): with no key down `pc` goes back to the fetch address, so that the next engine step runs the
instruction again. -/
def execKey (x : Reg) (s : State) : Host.Outcome State Fault Refusal :=
  if s.keyState = 0 then .next (s.setPc (s.pc - 2)) else .next (s.setV x (.ofNat 8 (lowestKey s.keyState)))

/-- SET.DT, FX15 (R205). -/
def execSetDT (x : Reg) (s : State) : Host.Outcome State Fault Refusal := .next (s.setDelayTimer (s.V x))

/-- SET.ST, FX18 (R206): a message is sent only when the sound state toggles; the test uses `V[x]` itself. -/
def execSetST (x : Reg) (s : State) : Host.Outcome State Fault Refusal :=
  let on := decide ((s.V x).toNat > 0)
  let t := s.setSoundTimer (Config.soundRemap (s.V x))
  if on = s.soundState then .next t else .next (t.setSoundState on).pushSound

/-- NOP.F, the reserved words of class F (R208, R98): nothing but the prologue. -/
def execNopF (s : State) : Host.Outcome State Fault Refusal := .next s

end Sys2Proof.Machine
end

