-- ==== Sys2Proof/Machine/Agents.lean ====
section
/-! DEFINITION. The atomic steps of the two agents beside the engine (60_exceptions.md rules R235, R241, R245,
R246). -/

namespace Sys2Proof.Machine

/-- A round of turns (R236): any turns, an engine step, any turns, a tick. Endless orders in which neither the engine nor
the Timer waits for ever are exactly the orders made of such rounds. -/
def turnRound (k : Nat) : List Turn :=
  Config.turnsBeforeEngine k ++ .engine :: (Config.turnsBeforeTick k ++ [.tick])

/-- The turns to come that are settled: the schedule, and the next round when it is empty. -/
def State.pendingTurns (s : State) : List Turn :=
  match s.schedule with
  | [] => turnRound s.rounds
  | t :: ts => t :: ts

/-- The number of rounds drawn once a turn has been taken. -/
def State.roundsDrawn (s : State) : Nat :=
  match s.schedule with
  | [] => s.rounds + 1
  | _ :: _ => s.rounds

/-- Whose step is next: the first of the turns to come, of which there is always one (R236, notes/assumptions/1). -/
def State.nextTurn (s : State) : Turn := s.pendingTurns.head?.getD .engine

/-- The state in which the agent whose turn it is steps: its turn is taken off. -/
def State.takeTurn (s : State) : State := (s.setSchedule s.pendingTurns.tail).setRounds s.roundsDrawn

/-- The delay timer's part of a tick: down by one, never below 0 (R241). -/
def State.tickDelay (s : State) : State :=
  if s.delayTimer.toNat > 0 then s.setDelayTimer (s.delayTimer - 1) else s

/-- The sound timer's part of a tick: down by one, never below 0; on the 1 to 0 transition the sound goes off and a
message is sent, not suppressed by `soundState` (R241). -/
def State.tickSound (s : State) : State :=
  if s.soundTimer.toNat > 0 then
    let t := s.setSoundTimer (s.soundTimer - 1)
    if t.soundTimer = 0 then (t.setSoundState false).pushSound else t
  else s

/-- One tick of the Timer Subsystem (R241): the delay timer first. -/
def State.tick (s : State) : State := s.tickDelay.tickSound

/-- The receipt of one key message (R245, R246): exactly two bytes replace the mask, the first byte in bits 15 to 8;
any other length kills the listener; a dead listener does nothing. -/
def State.receiveKeys (s : State) (bytes : List Byte) : State :=
  match s.listener with
  | .dead => s
  | .alive =>
    match bytes with
    | [b0, b1] => s.setKeyState (wordOfBytes b0 b1)
    | [] | [_] | _ :: _ :: _ :: _ => s.setListener .dead

end Sys2Proof.Machine
end

