-- ==== Sys2Proof/Machine/Flags.lean ====
section
/-! DEFINITION. The flag computations (10_state.md rule R22): what each flag-writing instruction puts in `VF`. Every
flag is 0x00 or 0x01 (41_alu.md rule R155). -/

namespace Sys2Proof.Machine

/-- A condition as the flag byte 0x01 or 0x00 (R155). -/
def flagByte (b : Bool) : Byte := if b then 1 else 0

/-- The carry of ADD.V: 1 iff the exact sum exceeds 255 (R148). -/
def carryFlag (a b : Byte) : Byte := flagByte (decide (a.toNat + b.toNat > 255))

/-- The no-borrow flag of SUB and SUBN: 1 iff the minuend is strictly greater (R149, R151). -/
def greaterFlag (a b : Byte) : Byte := flagByte (decide (a.toNat > b.toNat))

/-- The bit a right shift by one drops: bit 0 (R150). -/
def shiftRightFlag (v : Byte) : Byte := flagByte (v.getLsbD 0)

/-- The bit a left shift by one drops: bit 7 (R152). -/
def shiftLeftFlag (v : Byte) : Byte := flagByte (v.getLsbD 7)

/-- The index overflow of ADD.I: 1 iff the exact sum exceeds 0xFFF (R172). -/
def indexOverflowFlag (sum : Nat) : Byte := flagByte (decide (sum > 0xFFF))

/-- The collision flag of DRW (R191). -/
def collisionFlag (hit : Bool) : Byte := flagByte hit

end Sys2Proof.Machine
end

