-- ==== Sys2Proof/Machine/Alu.lean ====
section
/-! DEFINITION. Register load, arithmetic, logic, shift and random instructions (41_alu.md rules R140 to R155). None
touches `pc` again, memory, the stack, the screen, the timers or the outbound port. -/

namespace Sys2Proof.Machine

/-- LD.B, 6XNN (R141). -/
def execLdB (x : Reg) (nn : Byte) (s : State) : Host.Outcome State Fault Refusal := .next (s.setV x nn)

/-- ADD.B, 7XNN (R142): no flag. -/
def execAddB (x : Reg) (nn : Byte) (s : State) : Host.Outcome State Fault Refusal := .next (s.setV x (s.V x + nn))

/-- LD.V, 8XY0 (R143, R145). -/
def execLdV (x y : Reg) (s : State) : Host.Outcome State Fault Refusal := .next (s.setV x (s.V y))

/-- OR, 8XY1 (R144, R145). -/
def execOrV (x y : Reg) (s : State) : Host.Outcome State Fault Refusal := .next (s.setV x (s.V x ||| s.V y))

/-- AND, 8XY2 (R146, R145). -/
def execAndV (x y : Reg) (s : State) : Host.Outcome State Fault Refusal := .next (s.setV x (s.V x &&& s.V y))

/-- XOR, 8XY3 (R147, R145). -/
def execXorV (x y : Reg) (s : State) : Host.Outcome State Fault Refusal := .next (s.setV x (s.V x ^^^ s.V y))

/-- ADD.V, 8XY4 (R148, R140). -/
def execAddV (x y : Reg) (s : State) : Host.Outcome State Fault Refusal :=
  .next (s.setVFlag x (s.V x + s.V y) (carryFlag (s.V x) (s.V y)))

/-- SUB, 8XY5 (R149, R140). -/
def execSub (x y : Reg) (s : State) : Host.Outcome State Fault Refusal :=
  .next (s.setVFlag x (s.V x - s.V y) (greaterFlag (s.V x) (s.V y)))

/-- SHR, 8XY6 (R150, R140). -/
def execShr (x y : Reg) (s : State) : Host.Outcome State Fault Refusal :=
  .next (s.setVFlag x (s.shiftSource x y >>> 1) (shiftRightFlag (s.shiftSource x y)))

/-- SUBN, 8XY7 (R151, R140). -/
def execSubn (x y : Reg) (s : State) : Host.Outcome State Fault Refusal :=
  .next (s.setVFlag x (s.V y - s.V x) (greaterFlag (s.V y) (s.V x)))

/-- SHL, 8XYE (R152, R140). -/
def execShl (x y : Reg) (s : State) : Host.Outcome State Fault Refusal :=
  .next (s.setVFlag x (s.shiftSource x y <<< 1) (shiftLeftFlag (s.shiftSource x y)))

/-- NOP.8, the reserved words of class 8 (R153, R98): nothing but the prologue. -/
def execNop8 (s : State) : Host.Outcome State Fault Refusal := .next s

/-- RND, CXNN (R154): the drawn byte is a free value. -/
def execRnd (x : Reg) (nn : Byte) (s : State) : Host.Outcome State Fault Refusal :=
  .next (s.nextDraw.setV x (s.drawnByte &&& nn))

end Sys2Proof.Machine
end

