-- ==== Sys2Proof/Machine/Display.lean ====
section
/-! DEFINITION. Display instructions (43_display.md rules R190, R191). Both end by sending one message with the
screen. -/

namespace Sys2Proof.Machine

/-- Send `ScreenMsg()` of the present state (R252). -/
def State.pushScreen (s : State) : State := s.emit s.screenMsg

/-- CLS, 00E0 (R190). -/
def execCls (s : State) : Host.Outcome State Fault Refusal := .next (s.setScreen Screen.clear).pushScreen

/-- The screen and the collision of a sprite draw: the origin is read before `VF` is cleared (R191). -/
def State.drawn (s : State) (x y : Reg) (n : Nibble) : Canvas :=
  Canvas.drawRows (s.originX x) (s.originY y) (s.spriteBytes n) { screen := s.screen, hit := false }

/-- DRW, DXYN (R191). -/
def execDrw (x y : Reg) (n : Nibble) (s : State) : Host.Outcome State Fault Refusal :=
  .next ((s.setScreen (s.drawn x y n).screen).setV VF (collisionFlag (s.drawn x y n).hit)).pushScreen

end Sys2Proof.Machine
end

