-- ==== Sys2Proof/Machine/Flow.lean ====
section
/-! DEFINITION. The control-flow instructions (40_flow.md rules R120 to R129). Each runs after the prologue of
30_encoding.md rule R92: `pc` already holds the fetch address plus 2. -/

namespace Sys2Proof.Machine

/-- SYS, 0NNN (R120): the fatal `MachineCodeUnsupported`, with the fetch address and the instruction word. -/
def execSys (nnn : Imm12) (s : State) : Host.Outcome State Fault Refusal :=
  .next (s.raise .machineCodeUnsupported s.fetchAddr (some (zext16 nnn)))

/-- RET, 00EE (R121): on an empty stack `pc` keeps its advanced value and the sentinel is discarded. -/
def execRet (s : State) : Host.Outcome State Fault Refusal :=
  match s.pop with
  | (t, true, v) => .next (t.setPc v)
  | (t, false, _) => .next t

/-- JP, 1NNN (R122): a jump to its own fetch address ends the run when `endOnInfiniteLoop` is set. -/
def execJp (nnn : Imm12) (s : State) : Host.Outcome State Fault Refusal :=
  if zext16 nnn = s.fetchAddr ∧ s.cfg.endOnInfiniteLoop = true then .next (s.setPc (zext16 nnn)).haltClean
  else .next (s.setPc (zext16 nnn))

/-- CALL, 2NNN (R123): the jump is taken whether or not the push succeeded. -/
def execCall (nnn : Imm12) (s : State) : Host.Outcome State Fault Refusal :=
  .next ((s.push s.pc).setPc (zext16 nnn))

/-- SE.B, 3XNN (R124). -/
def execSeB (x : Reg) (nn : Byte) (s : State) : Host.Outcome State Fault Refusal :=
  .next (s.skipIf (s.V x == nn))

/-- SNE.B, 4XNN (R125). -/
def execSneB (x : Reg) (nn : Byte) (s : State) : Host.Outcome State Fault Refusal :=
  .next (s.skipIf (s.V x != nn))

/-- SE.V, 5XY0 (R126). -/
def execSeV (x y : Reg) (s : State) : Host.Outcome State Fault Refusal :=
  .next (s.skipIf (s.V x == s.V y))

/-- SNE.V, 9XY0 (R127). -/
def execSneV (x y : Reg) (s : State) : Host.Outcome State Fault Refusal :=
  .next (s.skipIf (s.V x != s.V y))

/-- JP.V, BNNN (R128). -/
def execJpV (nnn : Imm12) (s : State) : Host.Outcome State Fault Refusal :=
  .next (s.setPc (zext16 nnn + (s.V (s.jumpReg nnn)).setWidth 16))

end Sys2Proof.Machine
end

