-- ==== Sys2Proof/Machine/IndexMemory.lean ====
section
/-! DEFINITION. Index register and memory instructions (42_index_memory.md rules R170 to R176). -/

namespace Sys2Proof.Machine

/-- LD.I, ANNN (R171). -/
def execLdI (nnn : Imm12) (s : State) : Host.Outcome State Fault Refusal := .next (s.setIndex (zext16 nnn))

/-- ADD.I, FX1E (R172): `VF` is written only when `strictCosmac` is false. -/
def execAddI (x : Reg) (s : State) : Host.Outcome State Fault Refusal :=
  let t := s.setIndex (.ofNat 16 (s.indexSum x % memSize))
  if s.cfg.strictCosmac then .next t else .next (t.setV VF (indexOverflowFlag (s.indexSum x)))

/-- FONT, FX29 (R173). -/
def execFont (x : Reg) (s : State) : Host.Outcome State Fault Refusal := .next (s.setIndex (s.glyphAddr (s.V x)))

/-- BCD, FX33 (R174). -/
def execBcd (x : Reg) (s : State) : Host.Outcome State Fault Refusal :=
  .next (((s.writeData 0 (hundreds (s.V x))).writeData 1 (tens (s.V x))).writeData 2 (ones (s.V x)))

/-- The stores of STM: `V[0]` to `V[k-1]`, ascending (R175, the loop). -/
def State.storeRegs (s : State) (k : Nat) : State :=
  (List.range k).foldl (fun t i => t.writeData i (t.V (Fin.ofNat 16 i))) s

/-- The loads of LDM: `V[0]` to `V[k-1]`, ascending (R176, the loop). -/
def State.loadRegs (s : State) (k : Nat) : State :=
  (List.range k).foldl (fun t i => t.setV (Fin.ofNat 16 i) (t.readData i)) s

/-- STM, FX55 (R175). -/
def execStm (x : Reg) (s : State) : Host.Outcome State Fault Refusal :=
  .next ((s.storeRegs (x.val + 1)).setIndex (s.indexAfterBlock x))

/-- LDM, FX65 (R176). -/
def execLdm (x : Reg) (s : State) : Host.Outcome State Fault Refusal :=
  .next ((s.loadRegs (x.val + 1)).setIndex (s.indexAfterBlock x))

end Sys2Proof.Machine
end

