-- ==== Sys2Proof/Machine/Dispatch.lean ====
section
/-! DEFINITION. The meaning of each instruction (30_encoding.md rule R92, step 5): one arm per constructor. `exec`
runs after the prologue, with `pc` already at the fetch address plus 2. -/

namespace Sys2Proof.Machine

def exec (i : Instr) (s : State) : Host.Outcome State Fault Refusal :=
  match i with
  | .cls _ => Sys2Proof.Machine.execCls s
  | .ret _ => Sys2Proof.Machine.execRet s
  | .sys nnn => Sys2Proof.Machine.execSys nnn s
  | .jp nnn => Sys2Proof.Machine.execJp nnn s
  | .call nnn => Sys2Proof.Machine.execCall nnn s
  | .seB x nn => Sys2Proof.Machine.execSeB x nn s
  | .sneB x nn => Sys2Proof.Machine.execSneB x nn s
  | .seV x y _ => Sys2Proof.Machine.execSeV x y s
  | .ldB x nn => Sys2Proof.Machine.execLdB x nn s
  | .addB x nn => Sys2Proof.Machine.execAddB x nn s
  | .ldV x y => Sys2Proof.Machine.execLdV x y s
  | .orV x y => Sys2Proof.Machine.execOrV x y s
  | .andV x y => Sys2Proof.Machine.execAndV x y s
  | .xorV x y => Sys2Proof.Machine.execXorV x y s
  | .addV x y => Sys2Proof.Machine.execAddV x y s
  | .sub x y => Sys2Proof.Machine.execSub x y s
  | .shr x y => Sys2Proof.Machine.execShr x y s
  | .subn x y => Sys2Proof.Machine.execSubn x y s
  | .shl x y => Sys2Proof.Machine.execShl x y s
  | .nop8 _ _ _ => Sys2Proof.Machine.execNop8 s
  | .sneV x y _ => Sys2Proof.Machine.execSneV x y s
  | .ldI nnn => Sys2Proof.Machine.execLdI nnn s
  | .jpV nnn => Sys2Proof.Machine.execJpV nnn s
  | .rnd x nn => Sys2Proof.Machine.execRnd x nn s
  | .drw x y n => Sys2Proof.Machine.execDrw x y n s
  | .skp x => Sys2Proof.Machine.execSkp x s
  | .sknp x => Sys2Proof.Machine.execSknp x s
  | .nopE _ _ => Sys2Proof.Machine.execNopE s
  | .getDT x => Sys2Proof.Machine.execGetDT x s
  | .key x => Sys2Proof.Machine.execKey x s
  | .setDT x => Sys2Proof.Machine.execSetDT x s
  | .setST x => Sys2Proof.Machine.execSetST x s
  | .addI x => Sys2Proof.Machine.execAddI x s
  | .font x => Sys2Proof.Machine.execFont x s
  | .bcd x => Sys2Proof.Machine.execBcd x s
  | .stm x => Sys2Proof.Machine.execStm x s
  | .ldm x => Sys2Proof.Machine.execLdm x s
  | .nopF _ _ => Sys2Proof.Machine.execNopF s

end Sys2Proof.Machine
end

