-- ==== Sys2Proof/Machine/Engine.lean ====
section
/-! DEFINITION. One step of the engine: the common prologue of 30_encoding.md rule R92 and one instruction, and the
label the step contract of 00_scope.md rule R13 gives it. -/

namespace Sys2Proof.Machine

/-- One run of the prologue and one instruction (R92): fetch, decode, advance `pc`, execute. A fetch that leaves
memory is fatal and changes nothing else (R62, R222). -/
def engineStep (s : State) : Host.Outcome State Fault Refusal :=
  match s.fetch with
  | none => .next (s.raise .outOfBoundsFetch s.pc none)
  | some w => exec (decode w) s.advance

/-- The outcomes of `step` in R13: `Continue`, `Retry`, `HaltClean`, `Fatal(cause)`. -/
inductive StepOutcome where
  | continues | retry | haltClean | fatal (cause : Condition)
  deriving DecidableEq, Repr

/-- The instruction at `pc` is a KEY and no key is down (R203). -/
def State.waitsForKey (s : State) : Bool :=
  match s.fetch.map decode with
  | some (.key _) => s.keyState == 0
  | some _ => false
  | none => false

/-- The label of the engine step that starts at `s` (R13): read off the state the step gives, but for `Retry`, which
"differs from `Continue` only as a label" (R203). -/
def stepOutcome (s : State) : Option StepOutcome :=
  match engineStep s with
  | .next t =>
    match t.run, t.haltInfo with
    | .running, _ => some (if s.waitsForKey then .retry else .continues)
    | .haltedOk, _ => some .haltClean
    | .haltedFatal, some info => some (.fatal info.cond)
    | .haltedFatal, none => none
  | .fault _ => none
  | .refused _ => none

end Sys2Proof.Machine
end

