-- ==== Sys2Proof/Machine/Launch.lean ====
section
/-! DEFINITION. How a run is set up from outside (70_reset_and_hazards.md rules R280 to R284): the host chooses the
configuration, applies reset, and the font and the program image are in memory before the first step. -/

namespace Sys2Proof.Machine

/-- Reset with a configuration and a program image (R281, R283, R284). `none`: the launch is refused, because the font
or the image does not lie inside memory. The image is written over the font where the two overlap. -/
def launch (cfg : Cfg) (image : List Byte) : Option State :=
  if cfg.admits image.length then some (State.loadBytes cfg.romBase.toNat image (State.resetWith cfg)) else none

end Sys2Proof.Machine
end

