-- ==== Sys2Proof/Machine/Step.lean ====
section
/-! DEFINITION. One atomic step of the machine: the agent whose turn it is steps (60_exceptions.md rules R235, R236;
20_memory.md rule R71). -/

namespace Sys2Proof.Machine

/-- One step. When `RUN` is not `RUNNING` no agent has a step (R223). Else the agent whose turn it is steps. -/
def step (s : State) : Host.Outcome State Fault Refusal :=
  match s.run with
  | .haltedOk => .fault .haltedOk
  | .haltedFatal => .fault .haltedFatal
  | .running =>
    match s.nextTurn with
    | .engine => engineStep s.takeTurn
    | .tick => .next s.takeTurn.tick
    | .keyMessage bytes => .next (s.takeTurn.receiveKeys bytes)

/-- `s` with an instruction of the opcode table stored where the next step fetches: its word at `pc`, `RUN` =
`RUNNING`, and the engine's turn first (notes/assumptions/4). -/
def State.withFetchWord (s : State) (nbits w : Nat) : State :=
  ((s.placeWord (tableWord nbits w)).setRun .running).setSchedule (.engine :: s.schedule)

end Sys2Proof.Machine
end

