-- ==== Sys2Proof/Safety.lean ====
section
/-! DEFINITION. The terms claims are made in: what a good run is, what a step leaves unchanged, the invariants, and
which instruction a step runs. -/

namespace Sys2Proof.Machine

/-! ### Good and bad runs -/

/-- The one good end of a run (70_reset_and_hazards.md rule R288 (a)). -/
def State.endedWell (s : State) : Prop := s.run = .haltedOk

/-- The bad end of a run (R223, R288 (b)). -/
def State.endedBadly (s : State) : Prop := s.run = .haltedFatal

/-- The premise R42 asks of a claim about a program: no report, so the state is not "best-effort". -/
def State.unreported (s : State) : Prop := s.err = 0

/-- A state of a safe run: not at a bad end, and with no report behind it. -/
def State.safe (s : State) : Prop := ¬ s.endedBadly ∧ s.unreported

/-! ### Frames -/

/-- The pieces of state a frame speaks of. -/
inductive Part where
  | regs | pc | index | memory | stack | delayTimer | soundTimer | screen | keyState | soundState | cfg | run | err
  | haltInfo | listener | out | schedule | draws
  deriving DecidableEq, Repr

/-- A piece of state is the same in both states. Memory is compared through the read of one byte, the registers
through the read of one register. -/
def Part.same (p : Part) (s t : State) : Prop :=
  match p with
  | .regs => ∀ r, t.V r = s.V r
  | .pc => t.pc = s.pc
  | .index => t.index = s.index
  | .memory => ∀ a, t.byteAt a = s.byteAt a
  | .stack => t.stack = s.stack ∧ t.sp = s.sp
  | .delayTimer => t.delayTimer = s.delayTimer
  | .soundTimer => t.soundTimer = s.soundTimer
  | .screen => t.screen = s.screen
  | .keyState => t.keyState = s.keyState
  | .soundState => t.soundState = s.soundState
  | .cfg => t.cfg = s.cfg
  | .run => t.run = s.run
  | .err => t.err = s.err
  | .haltInfo => t.haltInfo = s.haltInfo
  | .listener => t.listener = s.listener
  | .out => t.out = s.out
  | .schedule => t.schedule = s.schedule ∧ t.rounds = s.rounds
  | .draws => t.draws = s.draws

/-- Everything but the listed pieces is the same. -/
def sameOutside (ps : List Part) (s t : State) : Prop := ∀ p, p ∉ ps → p.same s t

/-- The general registers become `f` and nothing else changes. -/
def regsBecome (f : Reg → Byte) (s t : State) : Prop := (∀ r, t.V r = f r) ∧ sameOutside [.regs] s t

/-- A turn has been taken between the two states: the turns to come are the old ones without the first. -/
def turnTaken (s t : State) : Prop := t.schedule = s.pendingTurns.tail ∧ t.rounds = s.roundsDrawn

/-! ### Invariants -/

/-- Memory is in its canonical form. -/
def memoryCanonical (s : State) : Prop := Memory.wf (resetByte s.cfg.fontBase) s.mem = true

/-- `pc` and every return address on the stack are as small as 10_state.md rule R25 says. -/
def flowBounded (s : State) : Prop :=
  s.pc.toNat ≤ 0x10FE ∧ ∀ k : Fin 12, k.val < s.sp.val → (s.stack[k.val]).toNat ≤ 0x1000

/-- `HALT_INFO` holds a record exactly when the end is a bad one (R43), of one of the two fatal conditions (R220). -/
def haltRecorded (s : State) : Prop :=
  (s.run = .haltedFatal ↔ s.haltInfo ≠ none) ∧
    ∀ info, s.haltInfo = some info →
      (info.cond = .outOfBoundsFetch ∧ info.word = none) ∨
        (info.cond = .machineCodeUnsupported ∧ info.word ≠ none)

/-- `I` is a 12-bit value (10_state.md rule R28, 42_index_memory.md rule R170). -/
def indexLow (s : State) : Prop := s.index.toNat ≤ 0xFFF

/-! ### Which instruction a step runs -/

/-- The engine steps next and fetches an instruction: which one. -/
def State.running? (s : State) : Option Instr :=
  match s.run, s.nextTurn with
  | .running, .engine => s.fetch.map decode
  | .running, .tick | .running, .keyMessage _ => none
  | .haltedOk, _ | .haltedFatal, _ => none

/-- A jump to its own address under the policy that ends the run (40_flow.md rule R122): the self-jump. -/
def State.selfJump (s : State) (i : Instr) : Prop :=
  match i with
  | .jp nnn => zext16 nnn = s.pc ∧ s.cfg.endOnInfiniteLoop = true
  | _ => False

/-- What sends a message: the complete list of 60_exceptions.md rule R255. -/
def State.sends (s : State) : Prop :=
  (s.run = .running ∧ s.nextTurn = .tick ∧ s.soundTimer = 1) ∨
    ∃ i, s.running? = some i ∧
      ((∃ ign, i = .cls ign) ∨ (∃ x y n, i = .drw x y n) ∨
        (∃ x, i = .setST x ∧ decide ((s.V x).toNat > 0) ≠ s.soundState) ∨ s.selfJump i)

/-! ### Sprites -/

/-- The sprite bit over the pixel `(cx, cy)`: the bit of the row `cy - oy` in column `cx - ox`, unset outside the
sprite (43_display.md rule R191). -/
def State.spriteBit (s : State) (x y : Reg) (n : Nibble) (cx cy : Nat) : Bool :=
  decide (s.originX x ≤ cx ∧ cx < s.originX x + 8 ∧ s.originY y ≤ cy ∧ cy < s.originY y + n.val) &&
    (s.byteAt (s.dataAddr (cy - s.originY y))).getLsbD (7 - (cx - s.originX x))

/-! ### Modes -/

/-- The same state under other mode flags. -/
def State.withModes (s : State) (strictCosmac romCompatibility : Bool) : State :=
  { s with cfg := { s.cfg with strictCosmac := strictCosmac, romCompatibility := romCompatibility } }

/-- The same state under another `debug` flag. -/
def State.withDebug (s : State) (debug : Bool) : State := { s with cfg := { s.cfg with debug := debug } }

end Sys2Proof.Machine

namespace Sys2Proof

/-- The pieces of state each instruction may write (10_state.md rule R47, 20_memory.md rule R64, and the rules of the
instructions). -/
def Instr.mayWrite : Instr → List Machine.Part
  | .cls _ => [.screen, .out]
  | .ret _ => [.pc, .stack, .err]
  | .sys _ => [.haltInfo, .run]
  | .jp _ => [.pc, .keyState, .soundState, .out, .run]
  | .call _ => [.pc, .stack, .err]
  | .seB _ _ | .sneB _ _ | .seV _ _ _ | .sneV _ _ _ | .jpV _ | .skp _ | .sknp _ => [.pc]
  | .ldB _ _ | .addB _ _ | .ldV _ _ | .orV _ _ | .andV _ _ | .xorV _ _ | .addV _ _ | .sub _ _ | .shr _ _
  | .subn _ _ | .shl _ _ | .getDT _ => [.regs]
  | .nop8 _ _ _ | .nopE _ _ | .nopF _ _ => []
  | .ldI _ | .font _ => [.index]
  | .rnd _ _ => [.regs, .draws]
  | .drw _ _ _ => [.screen, .regs, .out]
  | .key _ => [.regs, .pc]
  | .setDT _ => [.delayTimer]
  | .setST _ => [.soundTimer, .soundState, .out]
  | .addI _ => [.index, .regs]
  | .bcd _ => [.memory]
  | .stm _ => [.memory, .index]
  | .ldm _ => [.regs, .index]

/-- The configurations under which 42_index_memory.md rule R170 says that the upper bits of `I` stay 0. -/
def Cfg.keepsIndexLow (c : Cfg) : Prop := c.incrementsIndex = false ∧ c.fontBase.toNat ≤ 0xB04

/-- The six instructions that consult a mode flag (30_encoding.md rule R104). -/
def Instr.consultsModes : Instr → Bool
  | .shr _ _ | .shl _ _ | .jpV _ | .addI _ | .stm _ | .ldm _ => true
  | .cls _ | .ret _ | .sys _ | .jp _ | .call _ | .seB _ _ | .sneB _ _ | .seV _ _ _ | .ldB _ _ | .addB _ _ | .ldV _ _
  | .orV _ _ | .andV _ _ | .xorV _ _ | .addV _ _ | .sub _ _ | .subn _ _ | .nop8 _ _ _ | .sneV _ _ _ | .ldI _
  | .rnd _ _ | .drw _ _ _ | .skp _ | .sknp _ | .nopE _ _ | .getDT _ | .key _ | .setDT _ | .setST _ | .font _
  | .bcd _ | .nopF _ _ => false

end Sys2Proof
end

