-- ==== Sys2Proof/Certificates/Slice0/Obligations.lean ====
section
/-! DEFINITION. The statements of this model, for the provers. Each says which rule of spec/ it formalises. In a
statement about `exec`, `s` is the state after the prologue: `s.pc` is the fetch address plus 2 (30_encoding.md rule
R92). A frame is said by `sameOutside`: every piece of state not listed is unchanged, memory byte by byte. -/

open Sys2Proof Sys2Proof.Machine

/-! ### Encoding -/

/-- Words written out from 30_encoding.md rule R96 and the decode table of 95_test_vectors.md section 2.1 decode to the
instructions they stand for. -/
def Obligations.SpecWordsDecode : Prop :=
  decode 0x0AE0 = .cls 10 ∧ decode 0x00EE = .ret 0 ∧ decode 0x0100 = .sys 0x100 ∧ decode 0x1ABC = .jp 0xABC ∧
    decode 0x3A42 = .seB 10 0x42 ∧ decode 0x5ABF = .seV 10 11 15 ∧ decode 0x8AB7 = .subn 10 11 ∧
    decode 0x8ABF = .nop8 10 11 15 ∧ decode 0xB210 = .jpV 0x210 ∧ decode 0xD125 = .drw 1 2 5 ∧
    decode 0xE1A1 = .sknp 1 ∧ decode 0xF155 = .stm 1 ∧ decode 0xF130 = .nopF 1 0x30

/-- Every instruction comes back from its word, with every operand at every value (R90, R91, R102). -/
def Obligations.DecodeOfEncode : Prop := ∀ i : Instr, i.wellFormed = true → decode (encode i) = i

/-- Every one of the 65536 words is the word of exactly one instruction of the opcode map, and no bit of it is dropped
(R96, R99). -/
def Obligations.EncodeOfDecode : Prop :=
  ∀ w : Word, (decode w).wellFormed = true ∧ encode (decode w) = w

/-- The opcode table (R105): the instruction of a word is the one of the first row of the opcode table with
`(w & mask) == match`, and there is such a row for every word. -/
def Obligations.DecodeFollowsOpcodeTable : Prop :=
  ∀ w : Word, (opcodeTable.find? fun r => w &&& r.mask == r.pattern).map (·.mnemonic) = some (decode w).mnemonic

/-- R97 (decision D15): `x` is ignored in the words 0x0XE0 and 0x0XEE, `n` in the words 0x5XYN and 0x9XYN: each acts
as its canonical spelling. -/
def Obligations.IgnoredNibblesPlayNoPart : Prop :=
  ∀ (w : Word) (s : State),
    (opClass w = 0 → fieldNN w = 0xE0 → exec (decode w) s = exec (decode 0x00E0) s) ∧
      (opClass w = 0 → fieldNN w = 0xEE → exec (decode w) s = exec (decode 0x00EE) s) ∧
      (opClass w = 5 → exec (decode w) s = exec (decode (w &&& 0xFFF0)) s) ∧
      (opClass w = 9 → exec (decode w) s = exec (decode (w &&& 0xFFF0)) s)

/-! ### The step -/

/-- The prologue (R92, R62): while the machine runs, it is the engine's turn and both bytes of the instruction lie in
memory, a step is the instruction that the two bytes at `pc` decode to, big-endian, executed with `pc` advanced by 2 and
the engine's turn taken off the model's own turns to come (notes/assumptions/1), which changes nothing else. -/
def Obligations.StepRunsTheDecodedInstruction : Prop :=
  ∀ (s : State) (i : Instr), s.run = .running → s.nextTurn = .engine → s.pc.toNat ≤ 0xFFE →
    decode (s.byteAt s.pc.toNat ++ s.byteAt (s.pc.toNat + 1)) = i →
    step s = exec i { s.takeTurn with pc := s.pc + 2 } ∧ turnTaken s s.takeTurn ∧ sameOutside [.schedule] s s.takeTurn

/-- `OutOfBoundsFetch` (R62, R222; decision D2): a fetch with `pc` above 0xFFE halts, records the condition and `pc`,
and changes nothing else, but that a turn is taken off the model's own turns to come (notes/assumptions/1); `pc` keeps its
value. -/
def Obligations.FetchOutsideMemoryIsFatal : Prop :=
  ∀ s : State, s.run = .running → s.nextTurn = .engine → 0xFFE < s.pc.toNat →
    ∃ t, step s = .next t ∧ t.run = .haltedFatal ∧ t.haltInfo = some ⟨.outOfBoundsFetch, s.pc, none⟩ ∧
      turnTaken s t ∧ sameOutside [.run, .haltInfo, .schedule] s t

/-- R223 (decision D2): when `RUN` is not `RUNNING` no agent has a step; otherwise whoever's turn it is has one. That
"no step" is a fault of the two names is the model's choice (notes/assumptions/5). -/
def Obligations.OnlyAHaltedMachineHasNoStep : Prop :=
  ∀ s : State, (s.run = .haltedOk → step s = .fault .haltedOk) ∧
    (s.run = .haltedFatal → step s = .fault .haltedFatal) ∧ (s.run = .running → ∃ t, step s = .next t)

/-- The step contract (R13; decision D2): the engine step has exactly one of the four outcomes; it is `Retry` exactly
when a KEY finds no key, and then nothing has changed; `HaltClean` exactly at the self-jump under the policy;
`Fatal` exactly at a SYS word or a fetch outside memory, with that cause and no other; `Continue` exactly at every other
instruction. -/
def Obligations.StepOutcomeLabels : Prop :=
  ∀ s : State, s.run = .running →
    stepOutcome s ≠ none ∧
      (stepOutcome s = some .retry ↔ ∃ w x, s.fetch = some w ∧ decode w = .key x ∧ s.keyState = 0) ∧
      (stepOutcome s = some .retry → engineStep s = .next s) ∧
      (stepOutcome s = some .haltClean ↔ ∃ w, s.fetch = some w ∧ s.selfJump (decode w)) ∧
      (stepOutcome s = some (.fatal .machineCodeUnsupported) ↔ ∃ w nnn, s.fetch = some w ∧ decode w = .sys nnn) ∧
      (stepOutcome s = some (.fatal .outOfBoundsFetch) ↔ 0xFFE < s.pc.toNat) ∧
      (∀ c, stepOutcome s = some (.fatal c) → c = .machineCodeUnsupported ∨ c = .outOfBoundsFetch) ∧
      (stepOutcome s = some .continues ↔
        ∃ w, s.fetch = some w ∧ ¬s.selfJump (decode w) ∧ (∀ nnn, decode w ≠ .sys nnn) ∧
          ¬(s.keyState = 0 ∧ ∃ x, decode w = .key x))

/-- The turns to come (R71, R236; the model's own order, notes/assumptions/1): each step takes the first of them; they
are those the schedule lists, so that any finite order is followed, and the next round when it lists none. -/
def Obligations.TurnsAreTakenInOrder : Prop :=
  ∀ s t : State, step s = .next t →
    (∀ x xs, s.schedule = x :: xs → s.nextTurn = x ∧ t.schedule = xs ∧ t.rounds = s.rounds) ∧
      (s.schedule = [] → s.nextTurn :: t.schedule = turnRound s.rounds ∧ t.rounds = s.rounds + 1)

/-- Weak fairness (R236; decision D32): from every running state, whatever the free orders of turns are, the run comes
to an engine turn and to a tick, each within the turns listed and one round, unless it ends before. As it holds from
every running state, a run that does not end has infinitely many of both. The bound is the model's
(notes/assumptions/1). -/
def Obligations.NoAgentWaitsForEver : Prop :=
  ∀ (s : State) (a : Turn), s.run = .running → a = .engine ∨ a = .tick →
    ∃ n t, n ≤ s.schedule.length + (turnRound s.rounds).length ∧ core.run n s = .next t ∧
      (t.run = .running → t.nextTurn = a)

/-- R74: stores are seen by later fetches at once. Where STM stores register `k` at `pc` and register `k + 1` at
`pc + 1`, the next fetch reads the word of these two registers. -/
def Obligations.StoresAreSeenByTheNextFetch : Prop :=
  ∀ (s : State) (x : Reg) (k : Nat) (hk : k + 1 < 16), k + 1 ≤ x.val → s.pc.toNat ≤ 0xFFE →
    s.dataAddr k = s.pc.toNat →
    ∃ t, exec (.stm x) s = .next t ∧ t.fetch = some (s.V ⟨k, by omega⟩ ++ s.V ⟨k + 1, hk⟩)

/-! ### Invariants -/

/-- Every step keeps memory in its canonical form (the model's form of R29; notes/assumptions/6). -/
def Obligations.MemoryStaysCanonical : Prop :=
  ∀ s t : State, memoryCanonical s → step s = .next t → memoryCanonical t

/-- R25: `pc` never exceeds 0x10FE and no return address exceeds 0x1000, so that no wrap at 65536 is reached. -/
def Obligations.ProgramCounterStaysBounded : Prop :=
  ∀ s t : State, flowBounded s → step s = .next t → flowBounded t

/-- R28, R170: with `FONT_BASE` at most 0xB04 and outside the mode that increments `I`, `I` stays a 12-bit value. -/
def Obligations.IndexStaysTwelveBits : Prop :=
  ∀ s t : State, s.cfg.keepsIndexLow → indexLow s → step s = .next t → indexLow t

/-- R43, R222: `HALT_INFO` holds a record exactly when `RUN` is `HALTED_FATAL`, of one of the two fatal conditions, with
a word exactly for `MachineCodeUnsupported`. -/
def Obligations.HaltRecordMatchesRun : Prop :=
  ∀ s t : State, haltRecorded s → step s = .next t → haltRecorded t

/-- The machine right after reset meets the invariants. -/
def Obligations.ResetMeetsTheInvariants : Prop :=
  memoryCanonical State.reset ∧ flowBounded State.reset ∧ State.reset.cfg.keepsIndexLow ∧ indexLow State.reset ∧
    haltRecorded State.reset

/-- R49 (decisions D2 to D5, D22, D31): what reset leaves, whatever the configuration. The turns to
come and the draw counter are the model's own (notes/assumptions/1 and 3) and not spoken of. -/
def Obligations.ResetValues : Prop :=
  ∀ cfg : Cfg,
    (∀ r, (State.resetWith cfg).V r = 0) ∧ (State.resetWith cfg).pc = cfg.romBase ∧
      (State.resetWith cfg).index = 0 ∧ (State.resetWith cfg).sp = 0 ∧
      (∀ k : Fin 12, (State.resetWith cfg).stack[k.val] = 0) ∧
      (State.resetWith cfg).delayTimer = 0 ∧ (State.resetWith cfg).soundTimer = 0 ∧
      (∀ cx cy, (State.resetWith cfg).screen.pix cx cy = false) ∧ (State.resetWith cfg).keyState = 0 ∧
      (State.resetWith cfg).soundState = false ∧ (State.resetWith cfg).run = .running ∧
      (State.resetWith cfg).err = 0 ∧ (State.resetWith cfg).listener = .alive ∧ (State.resetWith cfg).out = [] ∧
      (State.resetWith cfg).cfg = cfg

/-- R281, R283 (decisions D21, D27): a launch is refused exactly when the font or the image does not lie in memory; else
memory holds the image at `ROM_BASE`, the font at `FONT_BASE` where the image does not cover it, and 0x00 elsewhere,
everything else is as reset leaves it, and the invariants hold. -/
def Obligations.LaunchPlacesFontAndImage : Prop :=
  ∀ (cfg : Cfg) (image : List Byte),
    (launch cfg image = none ↔ ¬(cfg.fontBase.toNat + 80 ≤ 4096 ∧ cfg.romBase.toNat + image.length ≤ 4096)) ∧
      ∀ s, launch cfg image = some s →
        (∀ k (h : k < image.length), s.byteAt (cfg.romBase.toNat + k) = image[k]) ∧
          (∀ k : Fin 80, (∀ j < image.length, cfg.fontBase.toNat + k.val ≠ cfg.romBase.toNat + j) →
            s.byteAt (cfg.fontBase.toNat + k.val) = Config.fontData k) ∧
          (∀ a, (∀ j < image.length, a ≠ cfg.romBase.toNat + j) →
            ¬(cfg.fontBase.toNat ≤ a ∧ a < cfg.fontBase.toNat + 80) → s.byteAt a = 0) ∧
          sameOutside [.memory] (State.resetWith cfg) s ∧
          memoryCanonical s ∧ flowBounded s ∧ indexLow s ∧ haltRecorded s

/-! ### Register load, arithmetic and logic -/

/-- LD.B (R141) and ADD.B (R142): the destination receives the byte, or the sum modulo 256; no flag is written. -/
def Obligations.LoadByteAndAddByte : Prop :=
  ∀ (s : State) (x : Reg) (nn : Byte),
    (∃ t, exec (.ldB x nn) s = .next t ∧ regsBecome (fun r => if r = x then nn else s.V r) s t) ∧
      ∃ t, exec (.addB x nn) s = .next t ∧
        regsBecome (fun r => if r = x then .ofNat 8 (((s.V x).toNat + nn.toNat) % 256) else s.V r) s t

/-- LD.V (R143), OR (R144), AND (R146), XOR (R147): the destination receives the copy or the bitwise result, and `VF`
is not written unless it is the destination, in every mode (R145). -/
def Obligations.CopyAndLogicWriteNoFlag : Prop :=
  ∀ (s : State) (x y : Reg),
    (∃ t, exec (.ldV x y) s = .next t ∧ regsBecome (fun r => if r = x then s.V y else s.V r) s t) ∧
      (∃ t, exec (.orV x y) s = .next t ∧ regsBecome (fun r => if r = x then s.V x ||| s.V y else s.V r) s t) ∧
      (∃ t, exec (.andV x y) s = .next t ∧ regsBecome (fun r => if r = x then s.V x &&& s.V y else s.V r) s t) ∧
      ∃ t, exec (.xorV x y) s = .next t ∧ regsBecome (fun r => if r = x then s.V x ^^^ s.V y else s.V r) s t

/-- ADD.V (R148; decision D11 for `x` = 15): `V[x]` receives the sum modulo 256, then `VF` the carry, 1 iff the sum
exceeds 255. -/
def Obligations.AddRegisterWithCarry : Prop :=
  ∀ (s : State) (x y : Reg), ∃ t, exec (.addV x y) s = .next t ∧
    regsBecome (fun r =>
      if r = 15 then (if (s.V x).toNat + (s.V y).toNat > 255 then 1 else 0)
      else if r = x then .ofNat 8 (((s.V x).toNat + (s.V y).toNat) % 256) else s.V r) s t

/-- SUB (R149) and SUBN (R151; decision D11 for `x` = 15 in both): the difference modulo 256, then `VF` = 1 iff the
first operand of the subtraction is strictly greater. -/
def Obligations.SubtractWithStrictFlag : Prop :=
  ∀ (s : State) (x y : Reg),
    (∃ t, exec (.sub x y) s = .next t ∧
      regsBecome (fun r =>
        if r = 15 then (if (s.V x).toNat > (s.V y).toNat then 1 else 0)
        else if r = x then .ofInt 8 (((s.V x).toNat - (s.V y).toNat : Int) % 256) else s.V r) s t) ∧
      ∃ t, exec (.subn x y) s = .next t ∧
        regsBecome (fun r =>
          if r = 15 then (if (s.V y).toNat > (s.V x).toNat then 1 else 0)
          else if r = x then .ofInt 8 (((s.V y).toNat - (s.V x).toNat : Int) % 256) else s.V r) s t

/-- SHR (R150) and SHL (R152; decision D11 for `x` = 15): `V[y]` in strict-COSMAC mode, else `V[x]`, shifted by one,
then `VF` the bit shifted out. -/
def Obligations.ShiftsWithBitShiftedOut : Prop :=
  ∀ (s : State) (x y : Reg) (v : Nat), v = (if s.cfg.strictCosmac then (s.V y).toNat else (s.V x).toNat) →
    (∃ t, exec (.shr x y) s = .next t ∧
      regsBecome (fun r => if r = 15 then .ofNat 8 (v % 2) else if r = x then .ofNat 8 (v / 2) else s.V r) s t) ∧
      ∃ t, exec (.shl x y) s = .next t ∧
        regsBecome (fun r =>
          if r = 15 then .ofNat 8 (v / 128) else if r = x then .ofNat 8 (v * 2 % 256) else s.V r) s t

/-- NOP.8 (R153), NOP.E (R207), NOP.F (R208): which words they are, and that only the prologue runs: `pc` advances by 2
and nothing else changes, but that the step takes a turn off the model's own turns to come (notes/assumptions/1). -/
def Obligations.ReservedWordsAreNoOps : Prop :=
  (∀ w : Word, (decode w).isReservedNop = true ↔
      (opClass w = 8 ∧ fieldN w ∈ [8, 9, 10, 11, 12, 13, 15]) ∨
        (opClass w = 14 ∧ fieldNN w ∉ [0x9E, 0xA1]) ∨
        (opClass w = 15 ∧ fieldNN w ∉ [0x07, 0x0A, 0x15, 0x18, 0x1E, 0x29, 0x33, 0x55, 0x65])) ∧
    ∀ (s : State) (i : Instr), i.isReservedNop = true →
      exec i s = .next s ∧
        (s.running? = some i → step s = .next { s.takeTurn with pc := s.pc + 2 })

/-- RND (R154; decision D16): `V[x]` receives the byte drawn, masked, whatever the byte; it has no bit outside `nn`, and
each draw is a fresh one. The byte is a free value (notes/assumptions/3). -/
def Obligations.RandomByteIsMasked : Prop :=
  ∀ (s : State) (x : Reg) (nn : Byte), ∃ t, exec (.rnd x nn) s = .next t ∧
    (∀ r, t.V r = if r = x then Config.randomByte s.draws &&& nn else s.V r) ∧ t.V x &&& ~~~nn = 0 ∧
    t.draws = s.draws + 1 ∧ sameOutside [.regs, .draws] s t

/-! ### Control flow -/

/-- JP (R122): `pc` receives `nnn`, and nothing else changes; but a jump to its own fetch address with
`endOnInfiniteLoop` set is the clean shutdown, which sets `RUN` to `HALTED_OK`. -/
def Obligations.JumpAndSelfJump : Prop :=
  ∀ (s : State) (nnn : Imm12),
    (¬(nnn.toNat = (s.pc - 2).toNat ∧ s.cfg.endOnInfiniteLoop = true) →
      ∃ t, exec (.jp nnn) s = .next t ∧ t.pc.toNat = nnn.toNat ∧ sameOutside [.pc] s t) ∧
      (nnn.toNat = (s.pc - 2).toNat ∧ s.cfg.endOnInfiniteLoop = true →
        ∃ t, exec (.jp nnn) s = .next t ∧ t.pc.toNat = nnn.toNat ∧ t.run = .haltedOk ∧
          t = (s.setPc t.pc).haltClean)

/-- `halt_clean` (R231; decisions D20, D34): keys zeroed, sound off, one final message with `sound` = false and
`keys` = 0 whose screen is null or the bitmap, `RUN` = `HALTED_OK`; timers, screen, memory and registers stay. -/
def Obligations.CleanShutdown : Prop :=
  ∀ (s : State) (nnn : Imm12), nnn.toNat = (s.pc - 2).toNat → s.cfg.endOnInfiniteLoop = true →
    ∃ t m, exec (.jp nnn) s = .next t ∧ t.keyState = 0 ∧ t.soundState = false ∧ t.run = .haltedOk ∧
      t.out = s.out ++ [m] ∧ m.sound = false ∧ m.keys = 0 ∧ (m.screen = none ∨ m.screen = some s.screen.pack) ∧
      m.screenWidth = 64 ∧ m.screenHeight = 32 ∧
      sameOutside [.pc, .keyState, .soundState, .out, .run] s t

/-- CALL (R123; decision D6): the jump is taken in any case; with room on the stack the advanced `pc` is pushed, with 12
entries on it the overflow is reported and the stack is unchanged. -/
def Obligations.CallPushesOrReports : Prop :=
  ∀ (s : State) (nnn : Imm12), ∃ t, exec (.call nnn) s = .next t ∧ t.pc.toNat = nnn.toNat ∧
    (s.sp.val < 12 → t.sp.val = s.sp.val + 1 ∧ t.err = s.err ∧
      ∀ k : Fin 12, t.stack[k.val] = if k.val = s.sp.val then s.pc else s.stack[k.val]) ∧
    (s.sp.val = 12 → t.sp = s.sp ∧ t.stack = s.stack ∧ t.err = s.err ||| 1) ∧
    sameOutside [.pc, .stack, .err] s t

/-- RET (R121; decision D7): the top entry goes to `pc`; on an empty stack the underflow is reported and `pc` keeps its
advanced value. No entry of the stack changes. -/
def Obligations.ReturnPopsOrReports : Prop :=
  ∀ (s : State) (ign : Nibble), ∃ t, exec (.ret ign) s = .next t ∧ t.stack = s.stack ∧
    (∀ k : Fin 12, s.sp.val = k.val + 1 → t.pc = s.stack[k.val] ∧ t.sp.val = k.val ∧ t.err = s.err) ∧
    (s.sp.val = 0 → t.pc = s.pc ∧ t.sp = s.sp ∧ t.err = s.err ||| 2) ∧
    sameOutside [.pc, .stack, .err] s t

/-- A return that finds the stack as the call left it goes back to the instruction after the call, with the stack as
deep as before the call and its entries unchanged (R33, R34, R121, R123). -/
def Obligations.ReturnUndoesCall : Prop :=
  ∀ (s t t' : State) (nnn : Imm12) (ign : Nibble), s.sp.val < 12 → exec (.call nnn) s = .next t →
    t'.stack = t.stack → t'.sp = t.sp →
    ∃ u, exec (.ret ign) t' = .next u ∧ u.pc = s.pc ∧ u.sp = s.sp ∧ u.err = t'.err ∧
      ∀ k : Fin 12, k.val < s.sp.val → u.stack[k.val] = s.stack[k.val]

/-- SE.B (R124) and SNE.B (R125): 2 more is added to `pc` exactly when the register equals, or differs from, the byte.
-/
def Obligations.SkipOnByte : Prop :=
  ∀ (s : State) (x : Reg) (nn : Byte),
    (∃ t, exec (.seB x nn) s = .next t ∧ t.pc = (if s.V x = nn then s.pc + 2 else s.pc) ∧ sameOutside [.pc] s t) ∧
      ∃ t, exec (.sneB x nn) s = .next t ∧ t.pc = (if s.V x = nn then s.pc else s.pc + 2) ∧ sameOutside [.pc] s t

/-- SE.V (R126) and SNE.V (R127), for every value of the ignored nibble (decision D15). -/
def Obligations.SkipOnRegister : Prop :=
  ∀ (s : State) (x y : Reg) (ign : Nibble),
    (∃ t, exec (.seV x y ign) s = .next t ∧ t.pc = (if s.V x = s.V y then s.pc + 2 else s.pc) ∧
      sameOutside [.pc] s t) ∧
      ∃ t, exec (.sneV x y ign) s = .next t ∧ t.pc = (if s.V x = s.V y then s.pc else s.pc + 2) ∧
        sameOutside [.pc] s t

/-- JP.V (R128): `pc` receives `nnn` plus V0 if either mode flag is set, else plus the register the top nibble of `nnn`
names; the sum is not masked. -/
def Obligations.JumpWithOffset : Prop :=
  ∀ (s : State) (nnn : Imm12) (x : Reg), x.val = nnn.toNat / 256 →
    ∃ t, exec (.jpV nnn) s = .next t ∧
      t.pc.toNat = nnn.toNat +
        (if s.cfg.strictCosmac = true ∨ s.cfg.romCompatibility = true then s.V 0 else s.V x).toNat ∧
      sameOutside [.pc] s t

/-- SYS (R120, R222; decisions D2, D25): the fatal `MachineCodeUnsupported`: `RUN` and `HALT_INFO` with the fetch
address and the instruction word, and nothing else; `pc` keeps its advanced value. -/
def Obligations.MachineCodeIsFatal : Prop :=
  ∀ (s : State) (nnn : Imm12), ∃ t w, exec (.sys nnn) s = .next t ∧ t.run = .haltedFatal ∧
    w.toNat = nnn.toNat ∧ t.haltInfo = some ⟨.machineCodeUnsupported, s.pc - 2, some w⟩ ∧
    sameOutside [.run, .haltInfo] s t

/-! ### Index register and memory -/

/-- LD.I (R171): `I` receives `nnn`, so that its upper four bits become 0. -/
def Obligations.LoadIndex : Prop :=
  ∀ (s : State) (nnn : Imm12), ∃ t, exec (.ldI nnn) s = .next t ∧ t.index.toNat = nnn.toNat ∧ sameOutside [.index] s t

/-- ADD.I (R172; decision D10): `I` receives the sum modulo 4096; `VF` is 1 iff the exact sum exceeds 0xFFF when
`strictCosmac` is false, and is not written when it is true. -/
def Obligations.AddToIndex : Prop :=
  ∀ (s : State) (x : Reg), ∃ t, exec (.addI x) s = .next t ∧
    t.index.toNat = (s.index.toNat + (s.V x).toNat) % 4096 ∧
    (∀ r, t.V r = if r = 15 ∧ s.cfg.strictCosmac = false
      then (if s.index.toNat + (s.V x).toNat > 0xFFF then 1 else 0) else s.V r) ∧
    sameOutside [.index, .regs] s t

/-- FONT (R173; decision D9): `I` receives `FONT_BASE + 5 * V[x]` modulo 65536, not masked to 12 bits; where
`FONT_BASE` is one R8 admits the sum does not wrap. -/
def Obligations.GlyphAddress : Prop :=
  ∀ (s : State) (x : Reg), ∃ t, exec (.font x) s = .next t ∧
    t.index.toNat = (s.cfg.fontBase.toNat + 5 * (s.V x).toNat) % 65536 ∧
    (s.cfg.fontBase.toNat + 80 ≤ 4096 → t.index.toNat = s.cfg.fontBase.toNat + 5 * (s.V x).toNat) ∧
    sameOutside [.index] s t

/-- BCD (R174; decision D8 for the wrap of the addresses): hundreds, tens and ones of `V[x]` at the data addresses `I`,
`I + 1`, `I + 2`; every other byte and all else is unchanged. -/
def Obligations.StoreDecimalDigits : Prop :=
  ∀ (s : State) (x : Reg), ∃ t, exec (.bcd x) s = .next t ∧
    (∀ a, t.byteAt a =
      if a = (s.index.toNat + 0) % 4096 then .ofNat 8 ((s.V x).toNat / 100)
      else if a = (s.index.toNat + 1) % 4096 then .ofNat 8 ((s.V x).toNat / 10 % 10)
      else if a = (s.index.toNat + 2) % 4096 then .ofNat 8 ((s.V x).toNat % 10) else s.byteAt a) ∧
    sameOutside [.memory] s t

/-- STM (R175; decisions D8, D9): `V[0]` to `V[x]` at the data addresses `I` to `I + x`, every other byte unchanged; `I`
is incremented by the count in strict-COSMAC mode without ROM-compat mode. -/
def Obligations.StoreRegisters : Prop :=
  ∀ (s : State) (x : Reg), ∃ t, exec (.stm x) s = .next t ∧
    (∀ i : Reg, i.val ≤ x.val → t.byteAt (s.dataAddr i.val) = s.V i) ∧
    (∀ a, (∀ i : Reg, i.val ≤ x.val → a ≠ s.dataAddr i.val) → t.byteAt a = s.byteAt a) ∧
    t.index.toNat = (if s.cfg.strictCosmac = true ∧ s.cfg.romCompatibility = false
      then (s.index.toNat + x.val + 1) % 65536 else s.index.toNat) ∧
    sameOutside [.memory, .index] s t

/-- LDM (R176; decisions D8, D9): `V[0]` to `V[x]` from the data addresses `I` to `I + x`, the other registers
unchanged; `I` as in STM. -/
def Obligations.LoadRegisters : Prop :=
  ∀ (s : State) (x : Reg), ∃ t, exec (.ldm x) s = .next t ∧
    (∀ r, t.V r = if r.val ≤ x.val then s.byteAt ((s.index.toNat + r.val) % 4096) else s.V r) ∧
    t.index.toNat = (if s.cfg.strictCosmac = true ∧ s.cfg.romCompatibility = false
      then (s.index.toNat + x.val + 1) % 65536 else s.index.toNat) ∧
    sameOutside [.regs, .index] s t

/-! ### Display -/

/-- CLS (R190; decision D15 for the ignored nibble): every pixel becomes 0, `VF` and all else stays, and one screen
message is sent, whose screen field is 256 bytes of 0x00. -/
def Obligations.ClearScreen : Prop :=
  ∀ (s : State) (ign : Nibble), ∃ t, exec (.cls ign) s = .next t ∧
    (∀ cx cy, cx < 64 → cy < 32 → t.screen.pix cx cy = false) ∧
    t.out = s.out ++ [⟨s.soundState, s.keyState, some (List.replicate 256 0), 64, 32⟩] ∧
    sameOutside [.screen, .out] s t

/-- DRW (R191; decision D12 for `x` or `y` = 15): the sprite is XORed into the screen at the origin
`(V[x] mod 64, V[y] mod 32)`, clipped at the edges; `VF` is 1 iff a set pixel of the screen lay under a set bit of the
sprite; one screen message is sent, after the pixels are written. -/
def Obligations.DrawSprite : Prop :=
  ∀ (s : State) (x y : Reg) (n : Nibble), ∃ t, exec (.drw x y n) s = .next t ∧
    (∀ cx cy, cx < 64 → cy < 32 → t.screen.pix cx cy = (s.screen.pix cx cy ^^ s.spriteBit x y n cx cy)) ∧
    (t.V 15 = 1 ∧ (∃ cx cy, cx < 64 ∧ cy < 32 ∧ s.screen.pix cx cy = true ∧ s.spriteBit x y n cx cy = true) ∨
      t.V 15 = 0 ∧ ¬∃ cx cy, cx < 64 ∧ cy < 32 ∧ s.screen.pix cx cy = true ∧ s.spriteBit x y n cx cy = true) ∧
    (∀ r, r ≠ 15 → t.V r = s.V r) ∧
    t.out = s.out ++ [⟨s.soundState, s.keyState, some t.screen.pack, 64, 32⟩] ∧
    sameOutside [.screen, .regs, .out] s t

/-- R192 (2): drawing a sprite twice at the same location with identical bits restores the screen, and `VF` is 1 on the
second draw iff some on-screen pixel under a 1 bit of the sprite was set after the first. The second draw may name
other registers and run later, as long as screen, origin and sprite bytes are the same. -/
def Obligations.DrawTwiceRestoresTheScreen : Prop :=
  ∀ (s t t' : State) (x y x' y' : Reg) (n : Nibble), exec (.drw x y n) s = .next t →
    t'.screen = t.screen → t'.originX x' = s.originX x → t'.originY y' = s.originY y →
    t'.spriteBytes n = s.spriteBytes n →
    ∃ u, exec (.drw x' y' n) t' = .next u ∧ u.screen = s.screen ∧
      (u.V 15 = 1 ↔
        ∃ cx cy, cx < 64 ∧ cy < 32 ∧ t.screen.pix cx cy = true ∧ s.spriteBit x y n cx cy = true)

/-- R254: the packed screen is 256 bytes; pixel `(cx, cy)` is bit `7 - (cx mod 8)` of byte `cy * 8 + (cx div 8)`. -/
def Obligations.ScreenPacking : Prop :=
  ∀ scr : Screen, scr.pack.length = 256 ∧
    ∀ cx cy, cx < 64 → cy < 32 → (scr.pack.getD (cy * 8 + cx / 8) 0).getLsbD (7 - cx % 8) = scr.pix cx cy

/-! ### Keys, timers, sound -/

/-- SKP (R201) and SKNP (R202): the skip is taken exactly when the key `V[x]` is, or is not, pressed; a key number above
15 is not pressed (R200, decision D13). -/
def Obligations.SkipOnKey : Prop :=
  ∀ (s : State) (x : Reg) (pressed : Bool),
    pressed = (decide ((s.V x).toNat ≤ 15) && s.keyState.getLsbD (s.V x).toNat) →
    (∃ t, exec (.skp x) s = .next t ∧ t.pc = (if pressed then s.pc + 2 else s.pc) ∧ sameOutside [.pc] s t) ∧
      ∃ t, exec (.sknp x) s = .next t ∧ t.pc = (if pressed then s.pc else s.pc + 2) ∧ sameOutside [.pc] s t

/-- KEY (R203; decision D29): with no key down `pc` goes back to the fetch address and nothing else changes; else `V[x]`
receives the least key number down. -/
def Obligations.WaitForKey : Prop :=
  ∀ (s : State) (x : Reg),
    (s.keyState = 0 → ∃ t, exec (.key x) s = .next t ∧ t.pc = s.pc - 2 ∧ sameOutside [.pc] s t) ∧
      (s.keyState ≠ 0 → ∃ t k, exec (.key x) s = .next t ∧ k < 16 ∧ s.keyState.getLsbD k = true ∧
        (∀ j, j < k → s.keyState.getLsbD j = false) ∧
        regsBecome (fun r => if r = x then .ofNat 8 k else s.V r) s t)

/-- GET.DT (R204) and SET.DT (R205): the delay timer is copied to `V[x]`, or replaced by it; no message is sent.
What a tick then does to the timer is `TimerTick`. -/
def Obligations.DelayTimerAccess : Prop :=
  ∀ (s : State) (x : Reg),
    (∃ t, exec (.getDT x) s = .next t ∧ regsBecome (fun r => if r = x then s.delayTimer else s.V r) s t) ∧
      ∃ t, exec (.setDT x) s = .next t ∧ t.delayTimer = s.V x ∧ sameOutside [.delayTimer] s t

/-- SET.ST (R206; decision D14): `soundTimer` receives `SOUND_REMAP(V[x])`, whatever that function is
(notes/assumptions/7); when `V[x] > 0` differs from `soundState` the sound state becomes it and one sound-only message
is sent, else no message is. -/
def Obligations.SetSoundTimer : Prop :=
  ∀ (s : State) (x : Reg) (on : Bool), on = decide ((s.V x).toNat > 0) →
    ∃ t, exec (.setST x) s = .next t ∧ t.soundTimer = Config.soundRemap (s.V x) ∧ t.soundState = on ∧
      (on = s.soundState → t.out = s.out) ∧
      (on ≠ s.soundState → t.out = s.out ++ [⟨on, s.keyState, none, 64, 32⟩]) ∧
      sameOutside [.soundTimer, .soundState, .out] s t

/-! ### The Timer and the Key Listener -/

/-- One tick (R241; decision D18): both timers go down by one and stop at 0; on the 1 to 0 transition of the sound timer
the sound goes off and one sound-only message is sent, whatever `soundState` was; nothing else changes, but that a
turn is taken off the model's own turns to come (notes/assumptions/1). -/
def Obligations.TimerTick : Prop :=
  ∀ s : State, s.run = .running → s.nextTurn = .tick →
    ∃ t, step s = .next t ∧ t.delayTimer.toNat = s.delayTimer.toNat - 1 ∧
      t.soundTimer.toNat = s.soundTimer.toNat - 1 ∧
      (s.soundTimer = 1 → t.soundState = false ∧ t.out = s.out ++ [⟨false, s.keyState, none, 64, 32⟩]) ∧
      (s.soundTimer ≠ 1 → t.soundState = s.soundState ∧ t.out = s.out) ∧
      turnTaken s t ∧
      sameOutside [.delayTimer, .soundTimer, .soundState, .out, .schedule] s t

/-- R242: after `n` ticks with no other step between them a timer that held `v` reads `v - n`, and 0 from the `v`-th
tick on; everything else but `soundState`, `OUT` and the model's own turns to come is as before. That the next `n` turns
are ticks, and which turns are left, is said of the model's own turns to come (notes/assumptions/1). -/
def Obligations.TimerReachesZeroAfterItsValue : Prop :=
  ∀ (n : Nat) (s : State) (rest : List Turn), s.run = .running → s.schedule = List.replicate n .tick ++ rest →
    ∃ t, core.run n s = .next t ∧ t.delayTimer.toNat = s.delayTimer.toNat - n ∧
      t.soundTimer.toNat = s.soundTimer.toNat - n ∧ t.schedule = rest ∧
      sameOutside [.delayTimer, .soundTimer, .soundState, .out, .schedule] s t

/-- R245: a 2-byte message to a live listener replaces the whole mask, the first byte in bits 15 to 8, and changes
nothing else, but that the step takes a turn off the model's own turns to come (notes/assumptions/1). -/
def Obligations.KeyMessageReplacesTheMask : Prop :=
  ∀ (s : State) (b0 b1 : Byte), s.run = .running → s.listener = .alive → s.nextTurn = .keyMessage [b0, b1] →
    ∃ t, step s = .next t ∧ t.keyState.toNat = b0.toNat * 256 + b1.toNat ∧ turnTaken s t ∧
      sameOutside [.keyState, .schedule] s t

/-- R246 (decision D22): a message of any other length leaves `keyState` and kills the listener, and the run goes on;
once the listener is dead no message has any effect. Each step takes a turn off the model's own turns to come
(notes/assumptions/1). -/
def Obligations.MalformedMessageKillsTheListener : Prop :=
  ∀ (s : State) (bytes : List Byte), s.run = .running → s.nextTurn = .keyMessage bytes →
    (bytes.length ≠ 2 → ∃ t, step s = .next t ∧ t.listener = .dead ∧ turnTaken s t ∧
      sameOutside [.listener, .schedule] s t) ∧
      (s.listener = .dead → ∃ t, step s = .next t ∧ turnTaken s t ∧ sameOutside [.schedule] s t)

/-! ### The whole machine -/

/-- R47, R64: each instruction writes no piece of state but those `Instr.mayWrite` lists for it (in particular only BCD
and STM write memory), and no step changes the configuration (R40). -/
def Obligations.InstructionFrames : Prop :=
  (∀ (i : Instr) (s t : State), exec i s = .next t → sameOutside i.mayWrite s t) ∧
    ∀ s t : State, step s = .next t → t.cfg = s.cfg

/-- R288 (decision D2): a step ends the run well exactly when it is the self-jump of a JP under the policy, and badly
exactly when it is a SYS word or a fetch outside memory. -/
def Obligations.RunEndsOnlyAsListed : Prop :=
  ∀ s t : State, step s = .next t →
    (t.run = .haltedOk ↔ ∃ i, s.running? = some i ∧ s.selfJump i) ∧
      (t.run = .haltedFatal ↔
        (s.nextTurn = .engine ∧ 0xFFE < s.pc.toNat) ∨ ∃ nnn, s.running? = some (.sys nnn))

/-- R250, R251, R255 (decision D19): a step sends one message exactly when it is one of the listed senders (CLS, DRW, a
toggling SET.ST, the tick that brings the sound timer to 0, the clean shutdown), else none; a message carries the sound
and key state the step leaves, and the packed screen or null; `OUT` only grows. -/
def Obligations.MessagesAreSentOnlyByTheListedSteps : Prop :=
  ∀ s t : State, step s = .next t →
    (s.sends → ∃ m, t.out = s.out ++ [m] ∧ m.sound = t.soundState ∧ m.keys = t.keyState ∧ m.screenWidth = 64 ∧
      m.screenHeight = 32 ∧ (m.screen = none ∨ m.screen = some t.screen.pack)) ∧
      (¬s.sends → t.out = s.out)

/-- R42, R224 (decision D3): `ERR` is sticky, and a step sets bit 0 exactly by a CALL on a full stack and bit 1 by a RET
on an empty one. -/
def Obligations.ReportsAreStickyAndOnlyFromTheStack : Prop :=
  ∀ s t : State, step s = .next t →
    (t.err.getLsbD 0 = true ↔ s.err.getLsbD 0 = true ∨ (s.sp.val = 12 ∧ ∃ nnn, s.running? = some (.call nnn))) ∧
      (t.err.getLsbD 1 = true ↔ s.err.getLsbD 1 = true ∨ (s.sp.val = 0 ∧ ∃ ign, s.running? = some (.ret ign)))

/-- Who writes the four shared scalars (R47, R60; decisions D18, D34), and what they become: `keyState` changes only by
a 2-byte key message, to its bytes, or by the clean shutdown, to 0; a timer only by its own SET instruction, to what
that writes, or by a tick, down by one; `soundState` only by SET.ST, to `V[x] > 0`, by the tick that brings the sound
timer to 0, or by the clean shutdown, to false in both. -/
def Obligations.SharedScalarsHaveTheListedWriters : Prop :=
  ∀ s t : State, step s = .next t →
    (t.keyState ≠ s.keyState →
      (∃ b0 b1, s.nextTurn = .keyMessage [b0, b1] ∧ s.listener = .alive ∧ t.keyState = b0 ++ b1) ∨
        (t.run = .haltedOk ∧ t.keyState = 0)) ∧
      (t.delayTimer ≠ s.delayTimer →
        (∃ x, s.running? = some (.setDT x) ∧ t.delayTimer = s.V x) ∨
          (s.nextTurn = .tick ∧ t.delayTimer.toNat + 1 = s.delayTimer.toNat)) ∧
      (t.soundTimer ≠ s.soundTimer →
        (∃ x, s.running? = some (.setST x) ∧ t.soundTimer = Config.soundRemap (s.V x)) ∨
          (s.nextTurn = .tick ∧ t.soundTimer.toNat + 1 = s.soundTimer.toNat)) ∧
      (t.soundState ≠ s.soundState →
        (∃ x, s.running? = some (.setST x) ∧ t.soundState = decide ((s.V x).toNat > 0)) ∨
          (s.nextTurn = .tick ∧ s.soundTimer = 1 ∧ t.soundState = false) ∨
          (t.run = .haltedOk ∧ t.soundState = false))

/-- R104: no instruction but SHR, SHL, JP.V, ADD.I, STM and LDM consults a mode flag: under other flags it does the
same; and `debug` alters no instruction at all (R8, R260). -/
def Obligations.ModeFlagsReachOnlySixInstructions : Prop :=
  ∀ (i : Instr) (s t : State), exec i s = .next t →
    (i.consultsModes = false → ∀ a b, exec i (s.withModes a b) = .next (t.withModes a b)) ∧
      ∀ d, exec i (s.withDebug d) = .next (t.withDebug d)

/-- R45, R250: the hardware never reads `OUT`: with other messages sent before, every step does the same and sends the
same. -/
def Obligations.SentMessagesInfluenceNothing : Prop :=
  ∀ (s t : State) (earlier : List Message), step s = .next t →
    step (s.setOut (earlier ++ s.out)) = .next (t.setOut (earlier ++ t.out))
end

