-- ==== Sys2Proof/Laws/State.lean ====
section
/-! SUPPORT. One lemma per field per update of the state, each true by unfolding, so that no proof unfolds a record
update; and the reads of one register and of one byte through each update. -/

namespace Sys2Proof.Machine

/-! ### setV -/

section
variable (s : State) (r : Reg) (v : Byte)

@[simp] theorem State.setV_regs : (s.setV r v).regs = s.regs.set r.val v r.isLt := rfl
@[simp] theorem State.setV_pc : (s.setV r v).pc = s.pc := rfl
@[simp] theorem State.setV_index : (s.setV r v).index = s.index := rfl
@[simp] theorem State.setV_mem : (s.setV r v).mem = s.mem := rfl
@[simp] theorem State.setV_stack : (s.setV r v).stack = s.stack := rfl
@[simp] theorem State.setV_sp : (s.setV r v).sp = s.sp := rfl
@[simp] theorem State.setV_delayTimer : (s.setV r v).delayTimer = s.delayTimer := rfl
@[simp] theorem State.setV_soundTimer : (s.setV r v).soundTimer = s.soundTimer := rfl
@[simp] theorem State.setV_screen : (s.setV r v).screen = s.screen := rfl
@[simp] theorem State.setV_keyState : (s.setV r v).keyState = s.keyState := rfl
@[simp] theorem State.setV_soundState : (s.setV r v).soundState = s.soundState := rfl
@[simp] theorem State.setV_cfg : (s.setV r v).cfg = s.cfg := rfl
@[simp] theorem State.setV_run : (s.setV r v).run = s.run := rfl
@[simp] theorem State.setV_err : (s.setV r v).err = s.err := rfl
@[simp] theorem State.setV_haltInfo : (s.setV r v).haltInfo = s.haltInfo := rfl
@[simp] theorem State.setV_listener : (s.setV r v).listener = s.listener := rfl
@[simp] theorem State.setV_out : (s.setV r v).out = s.out := rfl
@[simp] theorem State.setV_schedule : (s.setV r v).schedule = s.schedule := rfl
@[simp] theorem State.setV_rounds : (s.setV r v).rounds = s.rounds := rfl
@[simp] theorem State.setV_draws : (s.setV r v).draws = s.draws := rfl
@[simp] theorem State.setV_byteAt (d : Nat) : (s.setV r v).byteAt d = s.byteAt d := rfl

end

/-! ### setPc -/

section
variable (s : State) (v : Word)

@[simp] theorem State.setPc_regs : (s.setPc v).regs = s.regs := rfl
@[simp] theorem State.setPc_pc : (s.setPc v).pc = v := rfl
@[simp] theorem State.setPc_index : (s.setPc v).index = s.index := rfl
@[simp] theorem State.setPc_mem : (s.setPc v).mem = s.mem := rfl
@[simp] theorem State.setPc_stack : (s.setPc v).stack = s.stack := rfl
@[simp] theorem State.setPc_sp : (s.setPc v).sp = s.sp := rfl
@[simp] theorem State.setPc_delayTimer : (s.setPc v).delayTimer = s.delayTimer := rfl
@[simp] theorem State.setPc_soundTimer : (s.setPc v).soundTimer = s.soundTimer := rfl
@[simp] theorem State.setPc_screen : (s.setPc v).screen = s.screen := rfl
@[simp] theorem State.setPc_keyState : (s.setPc v).keyState = s.keyState := rfl
@[simp] theorem State.setPc_soundState : (s.setPc v).soundState = s.soundState := rfl
@[simp] theorem State.setPc_cfg : (s.setPc v).cfg = s.cfg := rfl
@[simp] theorem State.setPc_run : (s.setPc v).run = s.run := rfl
@[simp] theorem State.setPc_err : (s.setPc v).err = s.err := rfl
@[simp] theorem State.setPc_haltInfo : (s.setPc v).haltInfo = s.haltInfo := rfl
@[simp] theorem State.setPc_listener : (s.setPc v).listener = s.listener := rfl
@[simp] theorem State.setPc_out : (s.setPc v).out = s.out := rfl
@[simp] theorem State.setPc_schedule : (s.setPc v).schedule = s.schedule := rfl
@[simp] theorem State.setPc_rounds : (s.setPc v).rounds = s.rounds := rfl
@[simp] theorem State.setPc_draws : (s.setPc v).draws = s.draws := rfl
@[simp] theorem State.setPc_V (q : Reg) : (s.setPc v).V q = s.V q := rfl
@[simp] theorem State.setPc_byteAt (d : Nat) : (s.setPc v).byteAt d = s.byteAt d := rfl

end

/-! ### setIndex -/

section
variable (s : State) (v : Word)

@[simp] theorem State.setIndex_regs : (s.setIndex v).regs = s.regs := rfl
@[simp] theorem State.setIndex_pc : (s.setIndex v).pc = s.pc := rfl
@[simp] theorem State.setIndex_index : (s.setIndex v).index = v := rfl
@[simp] theorem State.setIndex_mem : (s.setIndex v).mem = s.mem := rfl
@[simp] theorem State.setIndex_stack : (s.setIndex v).stack = s.stack := rfl
@[simp] theorem State.setIndex_sp : (s.setIndex v).sp = s.sp := rfl
@[simp] theorem State.setIndex_delayTimer : (s.setIndex v).delayTimer = s.delayTimer := rfl
@[simp] theorem State.setIndex_soundTimer : (s.setIndex v).soundTimer = s.soundTimer := rfl
@[simp] theorem State.setIndex_screen : (s.setIndex v).screen = s.screen := rfl
@[simp] theorem State.setIndex_keyState : (s.setIndex v).keyState = s.keyState := rfl
@[simp] theorem State.setIndex_soundState : (s.setIndex v).soundState = s.soundState := rfl
@[simp] theorem State.setIndex_cfg : (s.setIndex v).cfg = s.cfg := rfl
@[simp] theorem State.setIndex_run : (s.setIndex v).run = s.run := rfl
@[simp] theorem State.setIndex_err : (s.setIndex v).err = s.err := rfl
@[simp] theorem State.setIndex_haltInfo : (s.setIndex v).haltInfo = s.haltInfo := rfl
@[simp] theorem State.setIndex_listener : (s.setIndex v).listener = s.listener := rfl
@[simp] theorem State.setIndex_out : (s.setIndex v).out = s.out := rfl
@[simp] theorem State.setIndex_schedule : (s.setIndex v).schedule = s.schedule := rfl
@[simp] theorem State.setIndex_rounds : (s.setIndex v).rounds = s.rounds := rfl
@[simp] theorem State.setIndex_draws : (s.setIndex v).draws = s.draws := rfl
@[simp] theorem State.setIndex_V (q : Reg) : (s.setIndex v).V q = s.V q := rfl
@[simp] theorem State.setIndex_byteAt (d : Nat) : (s.setIndex v).byteAt d = s.byteAt d := rfl

end

/-! ### setMem -/

section
variable (s : State) (m : Memory)

@[simp] theorem State.setMem_regs : (s.setMem m).regs = s.regs := rfl
@[simp] theorem State.setMem_pc : (s.setMem m).pc = s.pc := rfl
@[simp] theorem State.setMem_index : (s.setMem m).index = s.index := rfl
@[simp] theorem State.setMem_mem : (s.setMem m).mem = m := rfl
@[simp] theorem State.setMem_stack : (s.setMem m).stack = s.stack := rfl
@[simp] theorem State.setMem_sp : (s.setMem m).sp = s.sp := rfl
@[simp] theorem State.setMem_delayTimer : (s.setMem m).delayTimer = s.delayTimer := rfl
@[simp] theorem State.setMem_soundTimer : (s.setMem m).soundTimer = s.soundTimer := rfl
@[simp] theorem State.setMem_screen : (s.setMem m).screen = s.screen := rfl
@[simp] theorem State.setMem_keyState : (s.setMem m).keyState = s.keyState := rfl
@[simp] theorem State.setMem_soundState : (s.setMem m).soundState = s.soundState := rfl
@[simp] theorem State.setMem_cfg : (s.setMem m).cfg = s.cfg := rfl
@[simp] theorem State.setMem_run : (s.setMem m).run = s.run := rfl
@[simp] theorem State.setMem_err : (s.setMem m).err = s.err := rfl
@[simp] theorem State.setMem_haltInfo : (s.setMem m).haltInfo = s.haltInfo := rfl
@[simp] theorem State.setMem_listener : (s.setMem m).listener = s.listener := rfl
@[simp] theorem State.setMem_out : (s.setMem m).out = s.out := rfl
@[simp] theorem State.setMem_schedule : (s.setMem m).schedule = s.schedule := rfl
@[simp] theorem State.setMem_rounds : (s.setMem m).rounds = s.rounds := rfl
@[simp] theorem State.setMem_draws : (s.setMem m).draws = s.draws := rfl
@[simp] theorem State.setMem_V (q : Reg) : (s.setMem m).V q = s.V q := rfl

end

/-! ### setStack -/

section
variable (s : State) (st : Vector Word 12) (p : Fin 13)

@[simp] theorem State.setStack_regs : (s.setStack st p).regs = s.regs := rfl
@[simp] theorem State.setStack_pc : (s.setStack st p).pc = s.pc := rfl
@[simp] theorem State.setStack_index : (s.setStack st p).index = s.index := rfl
@[simp] theorem State.setStack_mem : (s.setStack st p).mem = s.mem := rfl
@[simp] theorem State.setStack_stack : (s.setStack st p).stack = st := rfl
@[simp] theorem State.setStack_sp : (s.setStack st p).sp = p := rfl
@[simp] theorem State.setStack_delayTimer : (s.setStack st p).delayTimer = s.delayTimer := rfl
@[simp] theorem State.setStack_soundTimer : (s.setStack st p).soundTimer = s.soundTimer := rfl
@[simp] theorem State.setStack_screen : (s.setStack st p).screen = s.screen := rfl
@[simp] theorem State.setStack_keyState : (s.setStack st p).keyState = s.keyState := rfl
@[simp] theorem State.setStack_soundState : (s.setStack st p).soundState = s.soundState := rfl
@[simp] theorem State.setStack_cfg : (s.setStack st p).cfg = s.cfg := rfl
@[simp] theorem State.setStack_run : (s.setStack st p).run = s.run := rfl
@[simp] theorem State.setStack_err : (s.setStack st p).err = s.err := rfl
@[simp] theorem State.setStack_haltInfo : (s.setStack st p).haltInfo = s.haltInfo := rfl
@[simp] theorem State.setStack_listener : (s.setStack st p).listener = s.listener := rfl
@[simp] theorem State.setStack_out : (s.setStack st p).out = s.out := rfl
@[simp] theorem State.setStack_schedule : (s.setStack st p).schedule = s.schedule := rfl
@[simp] theorem State.setStack_rounds : (s.setStack st p).rounds = s.rounds := rfl
@[simp] theorem State.setStack_draws : (s.setStack st p).draws = s.draws := rfl
@[simp] theorem State.setStack_V (q : Reg) : (s.setStack st p).V q = s.V q := rfl
@[simp] theorem State.setStack_byteAt (d : Nat) : (s.setStack st p).byteAt d = s.byteAt d := rfl

end

/-! ### setDelayTimer -/

section
variable (s : State) (v : Byte)

@[simp] theorem State.setDelayTimer_regs : (s.setDelayTimer v).regs = s.regs := rfl
@[simp] theorem State.setDelayTimer_pc : (s.setDelayTimer v).pc = s.pc := rfl
@[simp] theorem State.setDelayTimer_index : (s.setDelayTimer v).index = s.index := rfl
@[simp] theorem State.setDelayTimer_mem : (s.setDelayTimer v).mem = s.mem := rfl
@[simp] theorem State.setDelayTimer_stack : (s.setDelayTimer v).stack = s.stack := rfl
@[simp] theorem State.setDelayTimer_sp : (s.setDelayTimer v).sp = s.sp := rfl
@[simp] theorem State.setDelayTimer_delayTimer : (s.setDelayTimer v).delayTimer = v := rfl
@[simp] theorem State.setDelayTimer_soundTimer : (s.setDelayTimer v).soundTimer = s.soundTimer := rfl
@[simp] theorem State.setDelayTimer_screen : (s.setDelayTimer v).screen = s.screen := rfl
@[simp] theorem State.setDelayTimer_keyState : (s.setDelayTimer v).keyState = s.keyState := rfl
@[simp] theorem State.setDelayTimer_soundState : (s.setDelayTimer v).soundState = s.soundState := rfl
@[simp] theorem State.setDelayTimer_cfg : (s.setDelayTimer v).cfg = s.cfg := rfl
@[simp] theorem State.setDelayTimer_run : (s.setDelayTimer v).run = s.run := rfl
@[simp] theorem State.setDelayTimer_err : (s.setDelayTimer v).err = s.err := rfl
@[simp] theorem State.setDelayTimer_haltInfo : (s.setDelayTimer v).haltInfo = s.haltInfo := rfl
@[simp] theorem State.setDelayTimer_listener : (s.setDelayTimer v).listener = s.listener := rfl
@[simp] theorem State.setDelayTimer_out : (s.setDelayTimer v).out = s.out := rfl
@[simp] theorem State.setDelayTimer_schedule : (s.setDelayTimer v).schedule = s.schedule := rfl
@[simp] theorem State.setDelayTimer_rounds : (s.setDelayTimer v).rounds = s.rounds := rfl
@[simp] theorem State.setDelayTimer_draws : (s.setDelayTimer v).draws = s.draws := rfl
@[simp] theorem State.setDelayTimer_V (q : Reg) : (s.setDelayTimer v).V q = s.V q := rfl
@[simp] theorem State.setDelayTimer_byteAt (d : Nat) : (s.setDelayTimer v).byteAt d = s.byteAt d := rfl

end

/-! ### setSoundTimer -/

section
variable (s : State) (v : Byte)

@[simp] theorem State.setSoundTimer_regs : (s.setSoundTimer v).regs = s.regs := rfl
@[simp] theorem State.setSoundTimer_pc : (s.setSoundTimer v).pc = s.pc := rfl
@[simp] theorem State.setSoundTimer_index : (s.setSoundTimer v).index = s.index := rfl
@[simp] theorem State.setSoundTimer_mem : (s.setSoundTimer v).mem = s.mem := rfl
@[simp] theorem State.setSoundTimer_stack : (s.setSoundTimer v).stack = s.stack := rfl
@[simp] theorem State.setSoundTimer_sp : (s.setSoundTimer v).sp = s.sp := rfl
@[simp] theorem State.setSoundTimer_delayTimer : (s.setSoundTimer v).delayTimer = s.delayTimer := rfl
@[simp] theorem State.setSoundTimer_soundTimer : (s.setSoundTimer v).soundTimer = v := rfl
@[simp] theorem State.setSoundTimer_screen : (s.setSoundTimer v).screen = s.screen := rfl
@[simp] theorem State.setSoundTimer_keyState : (s.setSoundTimer v).keyState = s.keyState := rfl
@[simp] theorem State.setSoundTimer_soundState : (s.setSoundTimer v).soundState = s.soundState := rfl
@[simp] theorem State.setSoundTimer_cfg : (s.setSoundTimer v).cfg = s.cfg := rfl
@[simp] theorem State.setSoundTimer_run : (s.setSoundTimer v).run = s.run := rfl
@[simp] theorem State.setSoundTimer_err : (s.setSoundTimer v).err = s.err := rfl
@[simp] theorem State.setSoundTimer_haltInfo : (s.setSoundTimer v).haltInfo = s.haltInfo := rfl
@[simp] theorem State.setSoundTimer_listener : (s.setSoundTimer v).listener = s.listener := rfl
@[simp] theorem State.setSoundTimer_out : (s.setSoundTimer v).out = s.out := rfl
@[simp] theorem State.setSoundTimer_schedule : (s.setSoundTimer v).schedule = s.schedule := rfl
@[simp] theorem State.setSoundTimer_rounds : (s.setSoundTimer v).rounds = s.rounds := rfl
@[simp] theorem State.setSoundTimer_draws : (s.setSoundTimer v).draws = s.draws := rfl
@[simp] theorem State.setSoundTimer_V (q : Reg) : (s.setSoundTimer v).V q = s.V q := rfl
@[simp] theorem State.setSoundTimer_byteAt (d : Nat) : (s.setSoundTimer v).byteAt d = s.byteAt d := rfl

end

/-! ### setScreen -/

section
variable (s : State) (v : Screen)

@[simp] theorem State.setScreen_regs : (s.setScreen v).regs = s.regs := rfl
@[simp] theorem State.setScreen_pc : (s.setScreen v).pc = s.pc := rfl
@[simp] theorem State.setScreen_index : (s.setScreen v).index = s.index := rfl
@[simp] theorem State.setScreen_mem : (s.setScreen v).mem = s.mem := rfl
@[simp] theorem State.setScreen_stack : (s.setScreen v).stack = s.stack := rfl
@[simp] theorem State.setScreen_sp : (s.setScreen v).sp = s.sp := rfl
@[simp] theorem State.setScreen_delayTimer : (s.setScreen v).delayTimer = s.delayTimer := rfl
@[simp] theorem State.setScreen_soundTimer : (s.setScreen v).soundTimer = s.soundTimer := rfl
@[simp] theorem State.setScreen_screen : (s.setScreen v).screen = v := rfl
@[simp] theorem State.setScreen_keyState : (s.setScreen v).keyState = s.keyState := rfl
@[simp] theorem State.setScreen_soundState : (s.setScreen v).soundState = s.soundState := rfl
@[simp] theorem State.setScreen_cfg : (s.setScreen v).cfg = s.cfg := rfl
@[simp] theorem State.setScreen_run : (s.setScreen v).run = s.run := rfl
@[simp] theorem State.setScreen_err : (s.setScreen v).err = s.err := rfl
@[simp] theorem State.setScreen_haltInfo : (s.setScreen v).haltInfo = s.haltInfo := rfl
@[simp] theorem State.setScreen_listener : (s.setScreen v).listener = s.listener := rfl
@[simp] theorem State.setScreen_out : (s.setScreen v).out = s.out := rfl
@[simp] theorem State.setScreen_schedule : (s.setScreen v).schedule = s.schedule := rfl
@[simp] theorem State.setScreen_rounds : (s.setScreen v).rounds = s.rounds := rfl
@[simp] theorem State.setScreen_draws : (s.setScreen v).draws = s.draws := rfl
@[simp] theorem State.setScreen_V (q : Reg) : (s.setScreen v).V q = s.V q := rfl
@[simp] theorem State.setScreen_byteAt (d : Nat) : (s.setScreen v).byteAt d = s.byteAt d := rfl

end

/-! ### setKeyState -/

section
variable (s : State) (v : Word)

@[simp] theorem State.setKeyState_regs : (s.setKeyState v).regs = s.regs := rfl
@[simp] theorem State.setKeyState_pc : (s.setKeyState v).pc = s.pc := rfl
@[simp] theorem State.setKeyState_index : (s.setKeyState v).index = s.index := rfl
@[simp] theorem State.setKeyState_mem : (s.setKeyState v).mem = s.mem := rfl
@[simp] theorem State.setKeyState_stack : (s.setKeyState v).stack = s.stack := rfl
@[simp] theorem State.setKeyState_sp : (s.setKeyState v).sp = s.sp := rfl
@[simp] theorem State.setKeyState_delayTimer : (s.setKeyState v).delayTimer = s.delayTimer := rfl
@[simp] theorem State.setKeyState_soundTimer : (s.setKeyState v).soundTimer = s.soundTimer := rfl
@[simp] theorem State.setKeyState_screen : (s.setKeyState v).screen = s.screen := rfl
@[simp] theorem State.setKeyState_keyState : (s.setKeyState v).keyState = v := rfl
@[simp] theorem State.setKeyState_soundState : (s.setKeyState v).soundState = s.soundState := rfl
@[simp] theorem State.setKeyState_cfg : (s.setKeyState v).cfg = s.cfg := rfl
@[simp] theorem State.setKeyState_run : (s.setKeyState v).run = s.run := rfl
@[simp] theorem State.setKeyState_err : (s.setKeyState v).err = s.err := rfl
@[simp] theorem State.setKeyState_haltInfo : (s.setKeyState v).haltInfo = s.haltInfo := rfl
@[simp] theorem State.setKeyState_listener : (s.setKeyState v).listener = s.listener := rfl
@[simp] theorem State.setKeyState_out : (s.setKeyState v).out = s.out := rfl
@[simp] theorem State.setKeyState_schedule : (s.setKeyState v).schedule = s.schedule := rfl
@[simp] theorem State.setKeyState_rounds : (s.setKeyState v).rounds = s.rounds := rfl
@[simp] theorem State.setKeyState_draws : (s.setKeyState v).draws = s.draws := rfl
@[simp] theorem State.setKeyState_V (q : Reg) : (s.setKeyState v).V q = s.V q := rfl
@[simp] theorem State.setKeyState_byteAt (d : Nat) : (s.setKeyState v).byteAt d = s.byteAt d := rfl

end

/-! ### setSoundState -/

section
variable (s : State) (v : Bool)

@[simp] theorem State.setSoundState_regs : (s.setSoundState v).regs = s.regs := rfl
@[simp] theorem State.setSoundState_pc : (s.setSoundState v).pc = s.pc := rfl
@[simp] theorem State.setSoundState_index : (s.setSoundState v).index = s.index := rfl
@[simp] theorem State.setSoundState_mem : (s.setSoundState v).mem = s.mem := rfl
@[simp] theorem State.setSoundState_stack : (s.setSoundState v).stack = s.stack := rfl
@[simp] theorem State.setSoundState_sp : (s.setSoundState v).sp = s.sp := rfl
@[simp] theorem State.setSoundState_delayTimer : (s.setSoundState v).delayTimer = s.delayTimer := rfl
@[simp] theorem State.setSoundState_soundTimer : (s.setSoundState v).soundTimer = s.soundTimer := rfl
@[simp] theorem State.setSoundState_screen : (s.setSoundState v).screen = s.screen := rfl
@[simp] theorem State.setSoundState_keyState : (s.setSoundState v).keyState = s.keyState := rfl
@[simp] theorem State.setSoundState_soundState : (s.setSoundState v).soundState = v := rfl
@[simp] theorem State.setSoundState_cfg : (s.setSoundState v).cfg = s.cfg := rfl
@[simp] theorem State.setSoundState_run : (s.setSoundState v).run = s.run := rfl
@[simp] theorem State.setSoundState_err : (s.setSoundState v).err = s.err := rfl
@[simp] theorem State.setSoundState_haltInfo : (s.setSoundState v).haltInfo = s.haltInfo := rfl
@[simp] theorem State.setSoundState_listener : (s.setSoundState v).listener = s.listener := rfl
@[simp] theorem State.setSoundState_out : (s.setSoundState v).out = s.out := rfl
@[simp] theorem State.setSoundState_schedule : (s.setSoundState v).schedule = s.schedule := rfl
@[simp] theorem State.setSoundState_rounds : (s.setSoundState v).rounds = s.rounds := rfl
@[simp] theorem State.setSoundState_draws : (s.setSoundState v).draws = s.draws := rfl
@[simp] theorem State.setSoundState_V (q : Reg) : (s.setSoundState v).V q = s.V q := rfl
@[simp] theorem State.setSoundState_byteAt (d : Nat) : (s.setSoundState v).byteAt d = s.byteAt d := rfl

end

/-! ### setRun -/

section
variable (s : State) (v : RunState)

@[simp] theorem State.setRun_regs : (s.setRun v).regs = s.regs := rfl
@[simp] theorem State.setRun_pc : (s.setRun v).pc = s.pc := rfl
@[simp] theorem State.setRun_index : (s.setRun v).index = s.index := rfl
@[simp] theorem State.setRun_mem : (s.setRun v).mem = s.mem := rfl
@[simp] theorem State.setRun_stack : (s.setRun v).stack = s.stack := rfl
@[simp] theorem State.setRun_sp : (s.setRun v).sp = s.sp := rfl
@[simp] theorem State.setRun_delayTimer : (s.setRun v).delayTimer = s.delayTimer := rfl
@[simp] theorem State.setRun_soundTimer : (s.setRun v).soundTimer = s.soundTimer := rfl
@[simp] theorem State.setRun_screen : (s.setRun v).screen = s.screen := rfl
@[simp] theorem State.setRun_keyState : (s.setRun v).keyState = s.keyState := rfl
@[simp] theorem State.setRun_soundState : (s.setRun v).soundState = s.soundState := rfl
@[simp] theorem State.setRun_cfg : (s.setRun v).cfg = s.cfg := rfl
@[simp] theorem State.setRun_run : (s.setRun v).run = v := rfl
@[simp] theorem State.setRun_err : (s.setRun v).err = s.err := rfl
@[simp] theorem State.setRun_haltInfo : (s.setRun v).haltInfo = s.haltInfo := rfl
@[simp] theorem State.setRun_listener : (s.setRun v).listener = s.listener := rfl
@[simp] theorem State.setRun_out : (s.setRun v).out = s.out := rfl
@[simp] theorem State.setRun_schedule : (s.setRun v).schedule = s.schedule := rfl
@[simp] theorem State.setRun_rounds : (s.setRun v).rounds = s.rounds := rfl
@[simp] theorem State.setRun_draws : (s.setRun v).draws = s.draws := rfl
@[simp] theorem State.setRun_V (q : Reg) : (s.setRun v).V q = s.V q := rfl
@[simp] theorem State.setRun_byteAt (d : Nat) : (s.setRun v).byteAt d = s.byteAt d := rfl

end

/-! ### setErr -/

section
variable (s : State) (v : BitVec 2)

@[simp] theorem State.setErr_regs : (s.setErr v).regs = s.regs := rfl
@[simp] theorem State.setErr_pc : (s.setErr v).pc = s.pc := rfl
@[simp] theorem State.setErr_index : (s.setErr v).index = s.index := rfl
@[simp] theorem State.setErr_mem : (s.setErr v).mem = s.mem := rfl
@[simp] theorem State.setErr_stack : (s.setErr v).stack = s.stack := rfl
@[simp] theorem State.setErr_sp : (s.setErr v).sp = s.sp := rfl
@[simp] theorem State.setErr_delayTimer : (s.setErr v).delayTimer = s.delayTimer := rfl
@[simp] theorem State.setErr_soundTimer : (s.setErr v).soundTimer = s.soundTimer := rfl
@[simp] theorem State.setErr_screen : (s.setErr v).screen = s.screen := rfl
@[simp] theorem State.setErr_keyState : (s.setErr v).keyState = s.keyState := rfl
@[simp] theorem State.setErr_soundState : (s.setErr v).soundState = s.soundState := rfl
@[simp] theorem State.setErr_cfg : (s.setErr v).cfg = s.cfg := rfl
@[simp] theorem State.setErr_run : (s.setErr v).run = s.run := rfl
@[simp] theorem State.setErr_err : (s.setErr v).err = v := rfl
@[simp] theorem State.setErr_haltInfo : (s.setErr v).haltInfo = s.haltInfo := rfl
@[simp] theorem State.setErr_listener : (s.setErr v).listener = s.listener := rfl
@[simp] theorem State.setErr_out : (s.setErr v).out = s.out := rfl
@[simp] theorem State.setErr_schedule : (s.setErr v).schedule = s.schedule := rfl
@[simp] theorem State.setErr_rounds : (s.setErr v).rounds = s.rounds := rfl
@[simp] theorem State.setErr_draws : (s.setErr v).draws = s.draws := rfl
@[simp] theorem State.setErr_V (q : Reg) : (s.setErr v).V q = s.V q := rfl
@[simp] theorem State.setErr_byteAt (d : Nat) : (s.setErr v).byteAt d = s.byteAt d := rfl

end

/-! ### setHaltInfo -/

section
variable (s : State) (v : Option HaltInfo)

@[simp] theorem State.setHaltInfo_regs : (s.setHaltInfo v).regs = s.regs := rfl
@[simp] theorem State.setHaltInfo_pc : (s.setHaltInfo v).pc = s.pc := rfl
@[simp] theorem State.setHaltInfo_index : (s.setHaltInfo v).index = s.index := rfl
@[simp] theorem State.setHaltInfo_mem : (s.setHaltInfo v).mem = s.mem := rfl
@[simp] theorem State.setHaltInfo_stack : (s.setHaltInfo v).stack = s.stack := rfl
@[simp] theorem State.setHaltInfo_sp : (s.setHaltInfo v).sp = s.sp := rfl
@[simp] theorem State.setHaltInfo_delayTimer : (s.setHaltInfo v).delayTimer = s.delayTimer := rfl
@[simp] theorem State.setHaltInfo_soundTimer : (s.setHaltInfo v).soundTimer = s.soundTimer := rfl
@[simp] theorem State.setHaltInfo_screen : (s.setHaltInfo v).screen = s.screen := rfl
@[simp] theorem State.setHaltInfo_keyState : (s.setHaltInfo v).keyState = s.keyState := rfl
@[simp] theorem State.setHaltInfo_soundState : (s.setHaltInfo v).soundState = s.soundState := rfl
@[simp] theorem State.setHaltInfo_cfg : (s.setHaltInfo v).cfg = s.cfg := rfl
@[simp] theorem State.setHaltInfo_run : (s.setHaltInfo v).run = s.run := rfl
@[simp] theorem State.setHaltInfo_err : (s.setHaltInfo v).err = s.err := rfl
@[simp] theorem State.setHaltInfo_haltInfo : (s.setHaltInfo v).haltInfo = v := rfl
@[simp] theorem State.setHaltInfo_listener : (s.setHaltInfo v).listener = s.listener := rfl
@[simp] theorem State.setHaltInfo_out : (s.setHaltInfo v).out = s.out := rfl
@[simp] theorem State.setHaltInfo_schedule : (s.setHaltInfo v).schedule = s.schedule := rfl
@[simp] theorem State.setHaltInfo_rounds : (s.setHaltInfo v).rounds = s.rounds := rfl
@[simp] theorem State.setHaltInfo_draws : (s.setHaltInfo v).draws = s.draws := rfl
@[simp] theorem State.setHaltInfo_V (q : Reg) : (s.setHaltInfo v).V q = s.V q := rfl
@[simp] theorem State.setHaltInfo_byteAt (d : Nat) : (s.setHaltInfo v).byteAt d = s.byteAt d := rfl

end

/-! ### setListener -/

section
variable (s : State) (v : Listener)

@[simp] theorem State.setListener_regs : (s.setListener v).regs = s.regs := rfl
@[simp] theorem State.setListener_pc : (s.setListener v).pc = s.pc := rfl
@[simp] theorem State.setListener_index : (s.setListener v).index = s.index := rfl
@[simp] theorem State.setListener_mem : (s.setListener v).mem = s.mem := rfl
@[simp] theorem State.setListener_stack : (s.setListener v).stack = s.stack := rfl
@[simp] theorem State.setListener_sp : (s.setListener v).sp = s.sp := rfl
@[simp] theorem State.setListener_delayTimer : (s.setListener v).delayTimer = s.delayTimer := rfl
@[simp] theorem State.setListener_soundTimer : (s.setListener v).soundTimer = s.soundTimer := rfl
@[simp] theorem State.setListener_screen : (s.setListener v).screen = s.screen := rfl
@[simp] theorem State.setListener_keyState : (s.setListener v).keyState = s.keyState := rfl
@[simp] theorem State.setListener_soundState : (s.setListener v).soundState = s.soundState := rfl
@[simp] theorem State.setListener_cfg : (s.setListener v).cfg = s.cfg := rfl
@[simp] theorem State.setListener_run : (s.setListener v).run = s.run := rfl
@[simp] theorem State.setListener_err : (s.setListener v).err = s.err := rfl
@[simp] theorem State.setListener_haltInfo : (s.setListener v).haltInfo = s.haltInfo := rfl
@[simp] theorem State.setListener_listener : (s.setListener v).listener = v := rfl
@[simp] theorem State.setListener_out : (s.setListener v).out = s.out := rfl
@[simp] theorem State.setListener_schedule : (s.setListener v).schedule = s.schedule := rfl
@[simp] theorem State.setListener_rounds : (s.setListener v).rounds = s.rounds := rfl
@[simp] theorem State.setListener_draws : (s.setListener v).draws = s.draws := rfl
@[simp] theorem State.setListener_V (q : Reg) : (s.setListener v).V q = s.V q := rfl
@[simp] theorem State.setListener_byteAt (d : Nat) : (s.setListener v).byteAt d = s.byteAt d := rfl

end

/-! ### setOut -/

section
variable (s : State) (v : List Message)

@[simp] theorem State.setOut_regs : (s.setOut v).regs = s.regs := rfl
@[simp] theorem State.setOut_pc : (s.setOut v).pc = s.pc := rfl
@[simp] theorem State.setOut_index : (s.setOut v).index = s.index := rfl
@[simp] theorem State.setOut_mem : (s.setOut v).mem = s.mem := rfl
@[simp] theorem State.setOut_stack : (s.setOut v).stack = s.stack := rfl
@[simp] theorem State.setOut_sp : (s.setOut v).sp = s.sp := rfl
@[simp] theorem State.setOut_delayTimer : (s.setOut v).delayTimer = s.delayTimer := rfl
@[simp] theorem State.setOut_soundTimer : (s.setOut v).soundTimer = s.soundTimer := rfl
@[simp] theorem State.setOut_screen : (s.setOut v).screen = s.screen := rfl
@[simp] theorem State.setOut_keyState : (s.setOut v).keyState = s.keyState := rfl
@[simp] theorem State.setOut_soundState : (s.setOut v).soundState = s.soundState := rfl
@[simp] theorem State.setOut_cfg : (s.setOut v).cfg = s.cfg := rfl
@[simp] theorem State.setOut_run : (s.setOut v).run = s.run := rfl
@[simp] theorem State.setOut_err : (s.setOut v).err = s.err := rfl
@[simp] theorem State.setOut_haltInfo : (s.setOut v).haltInfo = s.haltInfo := rfl
@[simp] theorem State.setOut_listener : (s.setOut v).listener = s.listener := rfl
@[simp] theorem State.setOut_out : (s.setOut v).out = v := rfl
@[simp] theorem State.setOut_schedule : (s.setOut v).schedule = s.schedule := rfl
@[simp] theorem State.setOut_rounds : (s.setOut v).rounds = s.rounds := rfl
@[simp] theorem State.setOut_draws : (s.setOut v).draws = s.draws := rfl
@[simp] theorem State.setOut_V (q : Reg) : (s.setOut v).V q = s.V q := rfl
@[simp] theorem State.setOut_byteAt (d : Nat) : (s.setOut v).byteAt d = s.byteAt d := rfl

end

/-! ### setSchedule -/

section
variable (s : State) (v : List Turn)

@[simp] theorem State.setSchedule_regs : (s.setSchedule v).regs = s.regs := rfl
@[simp] theorem State.setSchedule_pc : (s.setSchedule v).pc = s.pc := rfl
@[simp] theorem State.setSchedule_index : (s.setSchedule v).index = s.index := rfl
@[simp] theorem State.setSchedule_mem : (s.setSchedule v).mem = s.mem := rfl
@[simp] theorem State.setSchedule_stack : (s.setSchedule v).stack = s.stack := rfl
@[simp] theorem State.setSchedule_sp : (s.setSchedule v).sp = s.sp := rfl
@[simp] theorem State.setSchedule_delayTimer : (s.setSchedule v).delayTimer = s.delayTimer := rfl
@[simp] theorem State.setSchedule_soundTimer : (s.setSchedule v).soundTimer = s.soundTimer := rfl
@[simp] theorem State.setSchedule_screen : (s.setSchedule v).screen = s.screen := rfl
@[simp] theorem State.setSchedule_keyState : (s.setSchedule v).keyState = s.keyState := rfl
@[simp] theorem State.setSchedule_soundState : (s.setSchedule v).soundState = s.soundState := rfl
@[simp] theorem State.setSchedule_cfg : (s.setSchedule v).cfg = s.cfg := rfl
@[simp] theorem State.setSchedule_run : (s.setSchedule v).run = s.run := rfl
@[simp] theorem State.setSchedule_err : (s.setSchedule v).err = s.err := rfl
@[simp] theorem State.setSchedule_haltInfo : (s.setSchedule v).haltInfo = s.haltInfo := rfl
@[simp] theorem State.setSchedule_listener : (s.setSchedule v).listener = s.listener := rfl
@[simp] theorem State.setSchedule_out : (s.setSchedule v).out = s.out := rfl
@[simp] theorem State.setSchedule_schedule : (s.setSchedule v).schedule = v := rfl
@[simp] theorem State.setSchedule_rounds : (s.setSchedule v).rounds = s.rounds := rfl
@[simp] theorem State.setSchedule_draws : (s.setSchedule v).draws = s.draws := rfl
@[simp] theorem State.setSchedule_V (q : Reg) : (s.setSchedule v).V q = s.V q := rfl
@[simp] theorem State.setSchedule_byteAt (d : Nat) : (s.setSchedule v).byteAt d = s.byteAt d := rfl

end

/-! ### setRounds -/

section
variable (s : State) (v : Nat)

@[simp] theorem State.setRounds_regs : (s.setRounds v).regs = s.regs := rfl
@[simp] theorem State.setRounds_pc : (s.setRounds v).pc = s.pc := rfl
@[simp] theorem State.setRounds_index : (s.setRounds v).index = s.index := rfl
@[simp] theorem State.setRounds_mem : (s.setRounds v).mem = s.mem := rfl
@[simp] theorem State.setRounds_stack : (s.setRounds v).stack = s.stack := rfl
@[simp] theorem State.setRounds_sp : (s.setRounds v).sp = s.sp := rfl
@[simp] theorem State.setRounds_delayTimer : (s.setRounds v).delayTimer = s.delayTimer := rfl
@[simp] theorem State.setRounds_soundTimer : (s.setRounds v).soundTimer = s.soundTimer := rfl
@[simp] theorem State.setRounds_screen : (s.setRounds v).screen = s.screen := rfl
@[simp] theorem State.setRounds_keyState : (s.setRounds v).keyState = s.keyState := rfl
@[simp] theorem State.setRounds_soundState : (s.setRounds v).soundState = s.soundState := rfl
@[simp] theorem State.setRounds_cfg : (s.setRounds v).cfg = s.cfg := rfl
@[simp] theorem State.setRounds_run : (s.setRounds v).run = s.run := rfl
@[simp] theorem State.setRounds_err : (s.setRounds v).err = s.err := rfl
@[simp] theorem State.setRounds_haltInfo : (s.setRounds v).haltInfo = s.haltInfo := rfl
@[simp] theorem State.setRounds_listener : (s.setRounds v).listener = s.listener := rfl
@[simp] theorem State.setRounds_out : (s.setRounds v).out = s.out := rfl
@[simp] theorem State.setRounds_schedule : (s.setRounds v).schedule = s.schedule := rfl
@[simp] theorem State.setRounds_rounds : (s.setRounds v).rounds = v := rfl
@[simp] theorem State.setRounds_draws : (s.setRounds v).draws = s.draws := rfl
@[simp] theorem State.setRounds_V (q : Reg) : (s.setRounds v).V q = s.V q := rfl
@[simp] theorem State.setRounds_byteAt (d : Nat) : (s.setRounds v).byteAt d = s.byteAt d := rfl

end

/-! ### setDraws -/

section
variable (s : State) (v : Nat)

@[simp] theorem State.setDraws_regs : (s.setDraws v).regs = s.regs := rfl
@[simp] theorem State.setDraws_pc : (s.setDraws v).pc = s.pc := rfl
@[simp] theorem State.setDraws_index : (s.setDraws v).index = s.index := rfl
@[simp] theorem State.setDraws_mem : (s.setDraws v).mem = s.mem := rfl
@[simp] theorem State.setDraws_stack : (s.setDraws v).stack = s.stack := rfl
@[simp] theorem State.setDraws_sp : (s.setDraws v).sp = s.sp := rfl
@[simp] theorem State.setDraws_delayTimer : (s.setDraws v).delayTimer = s.delayTimer := rfl
@[simp] theorem State.setDraws_soundTimer : (s.setDraws v).soundTimer = s.soundTimer := rfl
@[simp] theorem State.setDraws_screen : (s.setDraws v).screen = s.screen := rfl
@[simp] theorem State.setDraws_keyState : (s.setDraws v).keyState = s.keyState := rfl
@[simp] theorem State.setDraws_soundState : (s.setDraws v).soundState = s.soundState := rfl
@[simp] theorem State.setDraws_cfg : (s.setDraws v).cfg = s.cfg := rfl
@[simp] theorem State.setDraws_run : (s.setDraws v).run = s.run := rfl
@[simp] theorem State.setDraws_err : (s.setDraws v).err = s.err := rfl
@[simp] theorem State.setDraws_haltInfo : (s.setDraws v).haltInfo = s.haltInfo := rfl
@[simp] theorem State.setDraws_listener : (s.setDraws v).listener = s.listener := rfl
@[simp] theorem State.setDraws_out : (s.setDraws v).out = s.out := rfl
@[simp] theorem State.setDraws_schedule : (s.setDraws v).schedule = s.schedule := rfl
@[simp] theorem State.setDraws_rounds : (s.setDraws v).rounds = s.rounds := rfl
@[simp] theorem State.setDraws_draws : (s.setDraws v).draws = v := rfl
@[simp] theorem State.setDraws_V (q : Reg) : (s.setDraws v).V q = s.V q := rfl
@[simp] theorem State.setDraws_byteAt (d : Nat) : (s.setDraws v).byteAt d = s.byteAt d := rfl

end

/-- Reading a register after a register write. -/
@[simp] theorem State.setV_V (s : State) (r q : Reg) (v : Byte) : (s.setV r v).V q = if q = r then v else s.V q := by
  simp only [State.V, State.setV, Vector.getElem_set, Fin.ext_iff, eq_comm]

/-- Register files that read alike are equal. -/
theorem State.regs_eq_of_V {s t : State} (h : ∀ r, t.V r = s.V r) : t.regs = s.regs :=
  Vector.ext fun i hi => h ⟨i, hi⟩

end Sys2Proof.Machine
end

