-- ==== Sys2Proof/Laws/Memory.lean ====
section
/-! SUPPORT. Memory: read after write, the canonical form, and the accesses of the machine. -/

namespace Sys2Proof.Machine

variable {dflt : Nat → Byte}

theorem Memory.lookup_put (m : Memory) (a : Nat) (v : Byte) (b : Nat) :
    Memory.lookup (Memory.put m a v) b = if b = a then some v else Memory.lookup m b := by
  induction m with
  | nil => simp [Memory.put, Memory.lookup, eq_comm]
  | cons c m ih =>
    obtain ⟨k, w⟩ := c
    by_cases hlt : a < k
    · simp [Memory.put, Memory.lookup, hlt, eq_comm]
    · by_cases heq : a = k
      · subst heq; by_cases hb : a = b <;> simp [Memory.put, Memory.lookup, hb, eq_comm (a := b)]
      · simp only [Memory.put, hlt, heq, if_false, Memory.lookup, ih]
        by_cases hk : k = b
        · subst hk; simp [Ne.symm heq]
        · simp [hk]

theorem Memory.lookup_erase (m : Memory) (a b : Nat) :
    Memory.lookup (Memory.erase m a) b = if b = a then none else Memory.lookup m b := by
  induction m with
  | nil => simp [Memory.erase, Memory.lookup]
  | cons c m ih =>
    obtain ⟨k, w⟩ := c
    unfold Memory.erase at ih ⊢
    by_cases hk : k = a
    · subst hk
      by_cases hb : k = b <;> simp_all [Memory.lookup, eq_comm (a := b)]
    · by_cases hb : k = b
      · subst hb; simp [Memory.lookup, hk]
      · simp [Memory.lookup, hk, hb, ih]

/-- A write changes the byte it names and nothing else, whatever the list. -/
theorem Memory.read_write (m : Memory) (a : Nat) (v : Byte) (b : Nat) :
    Memory.read dflt (Memory.write dflt m a v) b = if b = a then v else Memory.read dflt m b := by
  unfold Memory.read Memory.write
  split
  · rename_i h; rw [Memory.lookup_erase]; split <;> simp_all
  · rw [Memory.lookup_put]; split <;> simp_all

theorem Memory.wf_iff (m : Memory) :
    Memory.wf dflt m = true ↔
      m.Pairwise (fun c d => c.1 < d.1) ∧ ∀ c ∈ m, c.1 < memSize ∧ c.2 ≠ dflt c.1 := by
  simp [Memory.wf, List.all_eq_true]

theorem Memory.mem_put {m : Memory} {a : Nat} {v : Byte} {c : Host.Cell} (h : c ∈ Memory.put m a v) :
    c = (a, v) ∨ c ∈ m := by
  induction m with
  | nil => simpa [Memory.put] using h
  | cons d m ih =>
    obtain ⟨k, w⟩ := d
    simp only [Memory.put] at h
    split at h
    · simpa using h
    · split at h
      · rcases List.mem_cons.1 h with h | h <;> simp [h]
      · rcases List.mem_cons.1 h with h | h
        · simp [h]
        · rcases ih h with h | h <;> simp [h]

theorem Memory.pairwise_put {m : Memory} (a : Nat) (v : Byte) (h : m.Pairwise fun c d => c.1 < d.1) :
    (Memory.put m a v).Pairwise fun c d => c.1 < d.1 := by
  induction m with
  | nil => simp [Memory.put]
  | cons d m ih =>
    obtain ⟨k, w⟩ := d
    obtain ⟨hd, hm⟩ := List.pairwise_cons.1 h
    simp only [Memory.put]
    split
    · rename_i hlt
      refine List.pairwise_cons.2 ⟨fun c hc => ?_, h⟩
      rcases List.mem_cons.1 hc with rfl | hc
      · exact hlt
      · exact Nat.lt_trans hlt (hd c hc)
    · split
      · rename_i heq; subst heq; exact List.pairwise_cons.2 ⟨hd, hm⟩
      · refine List.pairwise_cons.2 ⟨fun c hc => ?_, ih hm⟩
        rcases Memory.mem_put hc with rfl | hc
        · show k < a; omega
        · exact hd c hc

/-- Every write keeps the canonical form. -/
theorem Memory.wf_write {m : Memory} {a : Nat} (v : Byte) (ha : a < memSize) (h : Memory.wf dflt m = true) :
    Memory.wf dflt (Memory.write dflt m a v) = true := by
  obtain ⟨hp, hm⟩ := (Memory.wf_iff m).1 h
  refine (Memory.wf_iff _).2 ?_
  unfold Memory.write
  split
  · exact ⟨hp.filter _, fun c hc => hm c (List.mem_filter.1 hc).1⟩
  · rename_i hv
    refine ⟨Memory.pairwise_put a v hp, fun c hc => ?_⟩
    rcases Memory.mem_put hc with rfl | hc
    · exact ⟨ha, hv⟩
    · exact hm c hc

theorem Memory.lookup_eq_none {m : Memory} {a : Nat} (h : ∀ c ∈ m, a < c.1) : Memory.lookup m a = none := by
  induction m with
  | nil => rfl
  | cons c m ih =>
    obtain ⟨k, w⟩ := c
    have hk : a < k := h (k, w) (by simp)
    simp only [Memory.lookup]
    rw [if_neg (by omega)]
    exact ih fun c hc => h c (by simp [hc])

theorem Memory.mem_of_lookup {m : Memory} {a : Nat} {v : Byte} (h : Memory.lookup m a = some v) : (a, v) ∈ m := by
  induction m with
  | nil => simp [Memory.lookup] at h
  | cons c m ih =>
    obtain ⟨k, w⟩ := c
    simp only [Memory.lookup] at h
    split at h
    · simp_all
    · exact List.mem_cons_of_mem _ (ih h)

/-- The read of an address from memories in canonical form determines what is listed for it. -/
theorem Memory.lookup_of_read {m : Memory} (h : Memory.wf dflt m = true) (a : Nat) :
    Memory.lookup m a = if Memory.read dflt m a = dflt a then none else some (Memory.read dflt m a) := by
  unfold Memory.read
  cases hl : Memory.lookup m a with
  | none => simp
  | some v =>
    have := (((Memory.wf_iff m).1 h).2 _ (Memory.mem_of_lookup hl)).2
    simp_all

theorem Memory.eq_of_lookup {m n : Memory} (hm : m.Pairwise fun c d => c.1 < d.1)
    (hn : n.Pairwise fun c d => c.1 < d.1) (h : ∀ a, Memory.lookup m a = Memory.lookup n a) : m = n := by
  induction m generalizing n with
  | nil =>
    cases n with
    | nil => rfl
    | cons c n => have := h c.1; simp [Memory.lookup] at this
  | cons c m ih =>
    cases n with
    | nil => have := h c.1; simp [Memory.lookup] at this
    | cons d n =>
      obtain ⟨hc, hm'⟩ := List.pairwise_cons.1 hm
      obtain ⟨hd, hn'⟩ := List.pairwise_cons.1 hn
      obtain ⟨k, v⟩ := c
      obtain ⟨l, w⟩ := d
      have hkl : k = l := by
        rcases Nat.lt_trichotomy k l with hlt | heq | hgt
        · have := h k
          rw [Memory.lookup_eq_none (m := (l, w) :: n)] at this
          · simp [Memory.lookup] at this
          · intro c hc'
            rcases List.mem_cons.1 hc' with rfl | hc'
            · exact hlt
            · exact Nat.lt_trans hlt (hd c hc')
        · exact heq
        · have := h l
          rw [Memory.lookup_eq_none (m := (k, v) :: m)] at this
          · simp [Memory.lookup] at this
          · intro c hc'
            rcases List.mem_cons.1 hc' with rfl | hc'
            · exact hgt
            · exact Nat.lt_trans hgt (hc c hc')
      subst hkl
      have hvw : v = w := by have := h k; simpa [Memory.lookup] using this
      subst hvw
      have : m = n := by
        refine ih hm' hn' fun a => ?_
        by_cases ha : k = a
        · subst ha
          rw [Memory.lookup_eq_none fun c hc' => hc c hc', Memory.lookup_eq_none fun c hc' => hd c hc']
        · have := h a
          simpa [Memory.lookup, ha] using this
      rw [this]

/-- Memories in canonical form that read alike are equal data. -/
theorem Memory.ext_of_wf {m n : Memory} (hm : Memory.wf dflt m = true) (hn : Memory.wf dflt n = true)
    (h : ∀ a, Memory.read dflt m a = Memory.read dflt n a) : m = n :=
  Memory.eq_of_lookup ((Memory.wf_iff m).1 hm).1 ((Memory.wf_iff n).1 hn).1 fun a => by
    rw [Memory.lookup_of_read hm, Memory.lookup_of_read hn, h]

/-! ### The accesses of the machine -/

section
variable (s : State)

/-- `MemWrite` changes the byte it names and nothing else (20_memory.md rule R65). -/
@[simp] theorem State.writeByte_byteAt (a : Nat) (v : Byte) (b : Nat) :
    (s.writeByte a v).byteAt b = if b = a then v else s.byteAt b := by
  simp [State.byteAt, State.writeByte, Memory.read_write]

@[simp] theorem State.writeByte_V (a : Nat) (v : Byte) (q : Reg) : (s.writeByte a v).V q = s.V q := rfl
@[simp] theorem State.writeByte_regs (a : Nat) (v : Byte) : (s.writeByte a v).regs = s.regs := rfl
@[simp] theorem State.writeByte_pc (a : Nat) (v : Byte) : (s.writeByte a v).pc = s.pc := rfl
@[simp] theorem State.writeByte_index (a : Nat) (v : Byte) : (s.writeByte a v).index = s.index := rfl
@[simp] theorem State.writeByte_stack (a : Nat) (v : Byte) : (s.writeByte a v).stack = s.stack := rfl
@[simp] theorem State.writeByte_sp (a : Nat) (v : Byte) : (s.writeByte a v).sp = s.sp := rfl
@[simp] theorem State.writeByte_delayTimer (a : Nat) (v : Byte) : (s.writeByte a v).delayTimer = s.delayTimer := rfl
@[simp] theorem State.writeByte_soundTimer (a : Nat) (v : Byte) : (s.writeByte a v).soundTimer = s.soundTimer := rfl
@[simp] theorem State.writeByte_screen (a : Nat) (v : Byte) : (s.writeByte a v).screen = s.screen := rfl
@[simp] theorem State.writeByte_keyState (a : Nat) (v : Byte) : (s.writeByte a v).keyState = s.keyState := rfl
@[simp] theorem State.writeByte_soundState (a : Nat) (v : Byte) : (s.writeByte a v).soundState = s.soundState := rfl
@[simp] theorem State.writeByte_cfg (a : Nat) (v : Byte) : (s.writeByte a v).cfg = s.cfg := rfl
@[simp] theorem State.writeByte_run (a : Nat) (v : Byte) : (s.writeByte a v).run = s.run := rfl
@[simp] theorem State.writeByte_err (a : Nat) (v : Byte) : (s.writeByte a v).err = s.err := rfl
@[simp] theorem State.writeByte_haltInfo (a : Nat) (v : Byte) : (s.writeByte a v).haltInfo = s.haltInfo := rfl
@[simp] theorem State.writeByte_listener (a : Nat) (v : Byte) : (s.writeByte a v).listener = s.listener := rfl
@[simp] theorem State.writeByte_out (a : Nat) (v : Byte) : (s.writeByte a v).out = s.out := rfl
@[simp] theorem State.writeByte_schedule (a : Nat) (v : Byte) : (s.writeByte a v).schedule = s.schedule := rfl
@[simp] theorem State.writeByte_rounds (a : Nat) (v : Byte) : (s.writeByte a v).rounds = s.rounds := rfl
@[simp] theorem State.writeByte_draws (a : Nat) (v : Byte) : (s.writeByte a v).draws = s.draws := rfl
@[simp] theorem State.writeByte_dataAddr (a : Nat) (v : Byte) (k : Nat) :
    (s.writeByte a v).dataAddr k = s.dataAddr k := rfl

/-- A data address lies in memory (R66: the access never fails). -/
theorem State.dataAddr_lt (k : Nat) : s.dataAddr k < memSize := Nat.mod_lt _ (by decide)

/-- Different offsets below 4096 reach different addresses (R66). -/
theorem State.dataAddr_inj {j k : Nat} (hj : j < memSize) (hk : k < memSize) :
    s.dataAddr j = s.dataAddr k ↔ j = k := by
  unfold State.dataAddr memSize at *
  omega

end

/-- A write of the machine keeps the canonical form. -/
theorem State.writeByte_memoryWf {s : State} {a : Nat} (v : Byte) (ha : a < memSize)
    (h : Memory.wf (resetByte s.cfg.fontBase) s.mem = true) :
    Memory.wf (resetByte (s.writeByte a v).cfg.fontBase) (s.writeByte a v).mem = true := Memory.wf_write v ha h

end Sys2Proof.Machine
end

