-- ==== Sys2Proof/Laws/Screen.lean ====
section
/-! SUPPORT. The screen: one pixel after a write, the sprite draw pixel by pixel, and the packing. -/

namespace Sys2Proof.Machine

theorem rowSet_getMsbD (row : BitVec 64) {cx : Nat} (hcx : cx < 64) (b : Bool) (c : Nat) :
    (rowSet row cx b).getMsbD c = if c = cx then b else row.getMsbD c := by
  unfold rowSet
  by_cases hc : c < 64
  · by_cases h : c = cx
    · subst h
      cases b <;> simp [BitVec.getMsbD, BitVec.getLsbD_twoPow, hc] <;> omega
    · have : 63 - cx ≠ 63 - c := by omega
      cases b <;> simp [BitVec.getMsbD, BitVec.getLsbD_twoPow, hc, h, this] <;> omega
  · have : c ≠ cx := by omega
    cases b <;> simp [BitVec.getMsbD, hc, this]

theorem Screen.pix_outside (scr : Screen) {cx cy : Nat} (h : ¬(cx < 64 ∧ cy < 32)) : scr.pix cx cy = false := by
  unfold Screen.pix
  split
  · simp only [BitVec.getMsbD]; simp; omega
  · rfl

/-- A pixel write changes that pixel and nothing else; there is no pixel outside the grid. -/
theorem Screen.pix_setPix (scr : Screen) (cx cy : Nat) (b : Bool) (c r : Nat) :
    (scr.setPix cx cy b).pix c r = if c = cx ∧ r = cy ∧ cx < 64 ∧ cy < 32 then b else scr.pix c r := by
  unfold Screen.setPix
  split
  · rename_i h
    unfold Screen.pix
    by_cases hr : r < 32
    · by_cases hrc : r = cy
      · subst hrc; simp [hr, rowSet_getMsbD _ h.1, h]
      · simp [hr, hrc, Ne.symm hrc]
    · have : r ≠ cy := by omega
      simp [hr, this]
  · rename_i h
    rw [if_neg]; omega

/-- Screens with the same pixels are equal. -/
theorem Screen.ext_pix {scr scr' : Screen} (h : ∀ cx cy, cx < 64 → cy < 32 → scr.pix cx cy = scr'.pix cx cy) :
    scr = scr' := by
  refine Vector.ext fun cy hcy => BitVec.eq_of_getMsbD_eq fun cx hcx => ?_
  simpa [Screen.pix, hcy] using h cx cy hcx hcy

@[simp] theorem Screen.pix_clear (cx cy : Nat) : Screen.clear.pix cx cy = false := by
  simp [Screen.pix, Screen.clear]

/-! ### The sprite draw -/

theorem Canvas.drawBit_pix (c : Canvas) (cx cy : Nat) (bit : Bool) {a r : Nat} (ha : a < 64) (hr : r < 32) :
    (c.drawBit cx cy bit).screen.pix a r = (c.screen.pix a r ^^ (decide (a = cx ∧ r = cy) && bit)) := by
  unfold Canvas.drawBit
  split
  · simp only [Screen.pix_setPix]
    by_cases h : a = cx ∧ r = cy
    · obtain ⟨rfl, rfl⟩ := h; simp [ha, hr]
    · rw [if_neg (by omega)]; simp [h]
  · have : ¬(a = cx ∧ r = cy) := by omega
    simp [this]

theorem Canvas.drawBit_hit (c : Canvas) (cx cy : Nat) (bit : Bool) :
    (c.drawBit cx cy bit).hit = (c.hit || (c.screen.pix cx cy && bit)) := by
  unfold Canvas.drawBit
  split
  · rfl
  · rw [Screen.pix_outside _ (by omega)]; simp

/-- The bit of a sprite row over column `a`, for its first `k` columns. -/
def rowBit (b : Byte) (ox k a : Nat) : Bool := decide (ox ≤ a ∧ a < ox + k) && b.getLsbD (7 - (a - ox))

theorem rowBit_zero (b : Byte) (ox a : Nat) : rowBit b ox 0 a = false := by
  unfold rowBit
  rw [decide_eq_false (by omega), Bool.false_and]

/-- The first `k` columns of a sprite row. -/
def Canvas.drawCols (c : Canvas) (ox cy : Nat) (b : Byte) (k : Nat) : Canvas :=
  (List.range k).foldl (fun c col => c.drawBit (ox + col) cy (b.getLsbD (7 - col))) c

theorem Canvas.drawCols_succ (c : Canvas) (ox cy : Nat) (b : Byte) (k : Nat) :
    c.drawCols ox cy b (k + 1) = (c.drawCols ox cy b k).drawBit (ox + k) cy (b.getLsbD (7 - k)) := by
  simp [Canvas.drawCols, List.range_succ]

theorem Canvas.drawCols_pix (c : Canvas) (ox cy : Nat) (b : Byte) (k : Nat) {a r : Nat} (ha : a < 64) (hr : r < 32) :
    (c.drawCols ox cy b k).screen.pix a r = (c.screen.pix a r ^^ (decide (r = cy) && rowBit b ox k a)) := by
  induction k with
  | zero => rw [rowBit_zero]; simp [Canvas.drawCols]
  | succ k ih =>
    rw [Canvas.drawCols_succ, Canvas.drawBit_pix _ _ _ _ ha hr, ih]
    unfold rowBit
    by_cases hrc : r = cy
    · by_cases hak : a = ox + k
      · subst hak; simp [hrc]
      · have : (ox ≤ a ∧ a < ox + (k + 1)) ↔ (ox ≤ a ∧ a < ox + k) := by omega
        simp [hrc, hak, this]
    · simp [hrc]

theorem Canvas.drawCols_hit (c : Canvas) (ox cy : Nat) (b : Byte) (k : Nat) :
    (c.drawCols ox cy b k).hit = true ↔
      c.hit = true ∨ ∃ a, a < 64 ∧ cy < 32 ∧ c.screen.pix a cy = true ∧ rowBit b ox k a = true := by
  induction k with
  | zero => simp [Canvas.drawCols, rowBit_zero]
  | succ k ih =>
    rw [Canvas.drawCols_succ, Canvas.drawBit_hit, Bool.or_eq_true, ih, Bool.and_eq_true]
    constructor
    · rintro ((h | ⟨a, ha, hcy, hp, hb⟩) | ⟨hp, hb⟩)
      · exact .inl h
      · refine .inr ⟨a, ha, hcy, hp, ?_⟩
        simp only [rowBit, Bool.and_eq_true, decide_eq_true_eq] at hb ⊢
        exact ⟨by omega, hb.2⟩
      · by_cases hin : ox + k < 64 ∧ cy < 32
        · rw [Canvas.drawCols_pix _ _ _ _ _ hin.1 hin.2] at hp
          refine .inr ⟨ox + k, hin.1, hin.2, ?_, ?_⟩
          · simpa [rowBit] using hp
          · simp [rowBit, hb]
        · rw [Screen.pix_outside _ hin] at hp; cases hp
    · rintro (h | ⟨a, ha, hcy, hp, hb⟩)
      · exact .inl (.inl h)
      · simp only [rowBit, Bool.and_eq_true, decide_eq_true_eq] at hb
        by_cases hak : a = ox + k
        · subst hak
          refine .inr ⟨?_, by simpa using hb.2⟩
          rw [Canvas.drawCols_pix _ _ _ _ _ ha hcy]
          simp [rowBit, hp]
        · refine .inl (.inr ⟨a, ha, hcy, hp, ?_⟩)
          simp only [rowBit, Bool.and_eq_true, decide_eq_true_eq]
          exact ⟨by omega, hb.2⟩

/-- The bit of a sprite over the pixel `(a, r)`: bit `7 - (a - ox)` of the byte of row `r - oy`, unset outside the
sprite. -/
def spriteBitOf (bytes : List Byte) (ox oy a r : Nat) : Bool :=
  decide (ox ≤ a ∧ a < ox + 8 ∧ oy ≤ r ∧ r < oy + bytes.length) && (bytes.getD (r - oy) 0).getLsbD (7 - (a - ox))

theorem spriteBitOf_nil (ox oy a r : Nat) : spriteBitOf [] ox oy a r = false := by
  simp [spriteBitOf]

theorem spriteBitOf_cons (b : Byte) (bytes : List Byte) (ox oy a r : Nat) :
    spriteBitOf (b :: bytes) ox oy a r =
      ((decide (r = oy) && rowBit b ox 8 a) ^^ spriteBitOf bytes ox (oy + 1) a r) := by
  unfold spriteBitOf rowBit
  by_cases hr : r = oy
  · subst hr
    have h1 : ¬(ox ≤ a ∧ a < ox + 8 ∧ r + 1 ≤ r ∧ r < r + 1 + bytes.length) := by omega
    rw [decide_eq_false h1]
    simp
  · by_cases h : oy + 1 ≤ r
    · have hsub : r - oy = (r - (oy + 1)) + 1 := by omega
      have h2 : (ox ≤ a ∧ a < ox + 8 ∧ oy ≤ r ∧ r < oy + (b :: bytes).length) ↔
          (ox ≤ a ∧ a < ox + 8 ∧ oy + 1 ≤ r ∧ r < oy + 1 + bytes.length) := by
        simp only [List.length_cons]; omega
      simp only [hr, h2, hsub, decide_false, Bool.false_and, Bool.false_xor]
      simp
    · have h1 : ¬(ox ≤ a ∧ a < ox + 8 ∧ oy + 1 ≤ r ∧ r < oy + 1 + bytes.length) := by omega
      have h2 : ¬(ox ≤ a ∧ a < ox + 8 ∧ oy ≤ r ∧ r < oy + (b :: bytes).length) := by omega
      rw [decide_eq_false h1, decide_eq_false h2, decide_eq_false hr]
      rfl

/-- The draw XORs the sprite into the screen, pixel by pixel, clipped at the edges (43_display.md rule R191). -/
theorem Canvas.drawRows_pix (ox : Nat) (bytes : List Byte) : ∀ (oy : Nat) (c : Canvas) {a r : Nat}, a < 64 → r < 32 →
    (Canvas.drawRows ox oy bytes c).screen.pix a r = (c.screen.pix a r ^^ spriteBitOf bytes ox oy a r) := by
  induction bytes with
  | nil => intro oy c a r _ _; simp [Canvas.drawRows, spriteBitOf_nil]
  | cons b bytes ih =>
    intro oy c a r ha hr
    rw [Canvas.drawRows, ih _ _ ha hr, spriteBitOf_cons]
    have := Canvas.drawCols_pix c ox oy b 8 ha hr
    unfold Canvas.drawCols at this
    unfold Canvas.drawRow
    rw [this, Bool.xor_assoc]

/-- The collision: some on-screen pixel was set under a set bit of the sprite (R191). -/
theorem Canvas.drawRows_hit (ox : Nat) (bytes : List Byte) : ∀ (oy : Nat) (c : Canvas),
    (Canvas.drawRows ox oy bytes c).hit = true ↔
      c.hit = true ∨
        ∃ a r, a < 64 ∧ r < 32 ∧ c.screen.pix a r = true ∧ spriteBitOf bytes ox oy a r = true := by
  induction bytes with
  | nil => intro oy c; simp [Canvas.drawRows, spriteBitOf_nil]
  | cons b bytes ih =>
    intro oy c
    have hpix := fun a r ha hr => Canvas.drawCols_pix c ox oy b 8 (a := a) (r := r) ha hr
    have hhit := Canvas.drawCols_hit c ox oy b 8
    rw [Canvas.drawRows, ih]
    change ((c.drawCols ox oy b 8).hit = true ∨ ∃ a r, a < 64 ∧ r < 32 ∧ (c.drawCols ox oy b 8).screen.pix a r = true ∧ _)
      ↔ _
    rw [hhit]
    constructor
    · rintro ((h | ⟨a, ha, hcy, hp, hb⟩) | ⟨a, r, ha, hr, hp, hb⟩)
      · exact .inl h
      · refine .inr ⟨a, oy, ha, hcy, hp, ?_⟩
        rw [spriteBitOf_cons]
        have : spriteBitOf bytes ox (oy + 1) a oy = false := by
          simp only [spriteBitOf, Bool.and_eq_false_iff, decide_eq_false_iff_not]; left; omega
        simp [hb, this]
      · have hne : r ≠ oy := by
          simp only [spriteBitOf, Bool.and_eq_true, decide_eq_true_eq] at hb; omega
        rw [hpix a r ha hr] at hp
        refine .inr ⟨a, r, ha, hr, by simpa [hne] using hp, ?_⟩
        rw [spriteBitOf_cons]; simp [hne, hb]
    · rintro (h | ⟨a, r, ha, hr, hp, hb⟩)
      · exact .inl (.inl h)
      · rw [spriteBitOf_cons] at hb
        by_cases hro : r = oy
        · subst hro
          have : spriteBitOf bytes ox (r + 1) a r = false := by
            simp only [spriteBitOf, Bool.and_eq_false_iff, decide_eq_false_iff_not]; left; omega
          exact .inl (.inr ⟨a, ha, hr, hp, by simpa [this] using hb⟩)
        · refine .inr ⟨a, r, ha, hr, ?_, by simpa [hro] using hb⟩
          rw [hpix a r ha hr]; simpa [hro] using hp

/-! ### Packing -/

theorem rowBytes_length (row : BitVec 64) : (rowBytes row).length = 8 := by simp [rowBytes]

theorem flatMap_rowBytes_getD (rows : List (BitVec 64)) (cy j : Nat) (hj : j < 8) (hcy : cy < rows.length) :
    (rows.flatMap rowBytes).getD (cy * 8 + j) 0 = (rows[cy]).extractLsb' (56 - 8 * j) 8 := by
  induction rows generalizing cy with
  | nil => simp at hcy
  | cons row rows ih =>
    cases cy with
    | zero =>
      rw [List.flatMap_cons, List.getD_eq_getElem?_getD,
        List.getElem?_append_left (by rw [rowBytes_length]; omega)]
      simp [rowBytes, hj]
    | succ cy =>
      rw [List.flatMap_cons, List.getD_eq_getElem?_getD,
        List.getElem?_append_right (by rw [rowBytes_length]; omega), rowBytes_length]
      have : (cy + 1) * 8 + j - 8 = cy * 8 + j := by omega
      rw [this, ← List.getD_eq_getElem?_getD, ih cy (by simpa using hcy)]
      simp

/-- A packed screen has 256 bytes (60_exceptions.md rule R254). -/
theorem Screen.pack_length (scr : Screen) : scr.pack.length = 256 := by
  have : ∀ rows : List (BitVec 64), (rows.flatMap rowBytes).length = 8 * rows.length := by
    intro rows
    induction rows with
    | nil => rfl
    | cons row rows ih => simp [ih, rowBytes_length]; omega
  simp [Screen.pack, this]

/-- The byte of a packed screen that holds column `8 * j` to `8 * j + 7` of row `cy`. -/
theorem Screen.pack_getD (scr : Screen) {cy j : Nat} (hj : j < 8) (hcy : cy < 32) :
    scr.pack.getD (cy * 8 + j) 0 = (scr[cy]).extractLsb' (56 - 8 * j) 8 := by
  unfold Screen.pack
  rw [flatMap_rowBytes_getD _ _ _ hj (by simpa using hcy)]
  simp

theorem flatMap_rowBytes_zero (k : Nat) :
    (List.replicate k (0 : BitVec 64)).flatMap rowBytes = List.replicate (8 * k) 0 := by
  induction k with
  | zero => rfl
  | succ k ih =>
    rw [List.replicate_succ, List.flatMap_cons, ih, show rowBytes 0 = List.replicate 8 0 by decide,
      List.replicate_append_replicate]
    congr 1; omega

/-- A clear screen packs to 256 bytes of 0x00 (95_test_vectors.md S9). -/
theorem Screen.pack_clear : Screen.clear.pack = List.replicate 256 0 := by
  simp only [Screen.pack, Screen.clear, Vector.toList_replicate]
  exact flatMap_rowBytes_zero 32

end Sys2Proof.Machine
end

