-- ==== Sys2Proof/Laws/Ops.lean ====
section
/-! SUPPORT. What each shared operation can do, said once: its result and its frame. -/

namespace Sys2Proof.Machine

/-! ### Frames compose -/

theorem sameOutside.refl (ps : List Part) (s : State) : sameOutside ps s s := by
  intro p _; cases p <;> simp [Part.same]

theorem Part.same_trans {p : Part} {s t u : State} (h : p.same s t) (h' : p.same t u) : p.same s u := by
  cases p <;> simp_all [Part.same]

theorem sameOutside.trans {ps qs : List Part} {s t u : State} (h : sameOutside ps s t) (h' : sameOutside qs t u) :
    sameOutside (ps ++ qs) s u := fun p hp =>
  Part.same_trans (h p fun hm => hp (List.mem_append_left _ hm)) (h' p fun hm => hp (List.mem_append_right _ hm))

theorem sameOutside.mono {ps qs : List Part} {s t : State} (h : sameOutside ps s t) (hsub : ∀ p, p ∈ ps → p ∈ qs) :
    sameOutside qs s t := fun p hp => h p fun hm => hp (hsub p hm)

section
variable (s : State)

/-! ### One field at a time -/

theorem State.setV_frame (r : Reg) (v : Byte) : sameOutside [.regs] s (s.setV r v) := by
  intro p hp; cases p <;> simp_all [Part.same]
theorem State.setPc_frame (v : Word) : sameOutside [.pc] s (s.setPc v) := by
  intro p hp; cases p <;> simp_all [Part.same]
theorem State.setIndex_frame (v : Word) : sameOutside [.index] s (s.setIndex v) := by
  intro p hp; cases p <;> simp_all [Part.same]
theorem State.writeByte_frame (a : Nat) (v : Byte) : sameOutside [.memory] s (s.writeByte a v) := by
  intro p hp; cases p <;> simp_all [Part.same]
theorem State.setStack_frame (st : Vector Word 12) (sp : Fin 13) : sameOutside [.stack] s (s.setStack st sp) := by
  intro p hp; cases p <;> simp_all [Part.same]
theorem State.setDelayTimer_frame (v : Byte) : sameOutside [.delayTimer] s (s.setDelayTimer v) := by
  intro p hp; cases p <;> simp_all [Part.same]
theorem State.setSoundTimer_frame (v : Byte) : sameOutside [.soundTimer] s (s.setSoundTimer v) := by
  intro p hp; cases p <;> simp_all [Part.same]
theorem State.setScreen_frame (v : Screen) : sameOutside [.screen] s (s.setScreen v) := by
  intro p hp; cases p <;> simp_all [Part.same]
theorem State.setKeyState_frame (v : Word) : sameOutside [.keyState] s (s.setKeyState v) := by
  intro p hp; cases p <;> simp_all [Part.same]
theorem State.setSoundState_frame (v : Bool) : sameOutside [.soundState] s (s.setSoundState v) := by
  intro p hp; cases p <;> simp_all [Part.same]
theorem State.setListener_frame (v : Listener) : sameOutside [.listener] s (s.setListener v) := by
  intro p hp; cases p <;> simp_all [Part.same]
theorem State.setOut_frame (v : List Message) : sameOutside [.out] s (s.setOut v) := by
  intro p hp; cases p <;> simp_all [Part.same]
theorem State.setSchedule_frame (v : List Turn) : sameOutside [.schedule] s (s.setSchedule v) := by
  intro p hp; cases p <;> simp_all [Part.same]
theorem State.setRounds_frame (v : Nat) : sameOutside [.schedule] s (s.setRounds v) := by
  intro p hp; cases p <;> simp_all [Part.same]
theorem State.setDraws_frame (v : Nat) : sameOutside [.draws] s (s.setDraws v) := by
  intro p hp; cases p <;> simp_all [Part.same]

/-! ### Program counter, flag, reports, fatal entry -/

@[simp] theorem State.advance_pc : s.advance.pc = s.pc + 2 := rfl
@[simp] theorem State.advance_sp : s.advance.sp = s.sp := rfl
@[simp] theorem State.advance_stack : s.advance.stack = s.stack := rfl
@[simp] theorem State.advance_cfg : s.advance.cfg = s.cfg := rfl
@[simp] theorem State.advance_V (r : Reg) : s.advance.V r = s.V r := rfl
theorem State.advance_frame : sameOutside [.pc] s s.advance := s.setPc_frame _

/-- The advanced `pc` gives back the fetch address (R14). -/
@[simp] theorem State.advance_fetchAddr : s.advance.fetchAddr = s.pc := by
  simp only [State.fetchAddr, State.advance_pc]
  bv_omega

theorem State.skipIf_pc (b : Bool) : (s.skipIf b).pc = if b then s.pc + 2 else s.pc := by
  cases b <;> simp [State.skipIf]
theorem State.skipIf_frame (b : Bool) : sameOutside [.pc] s (s.skipIf b) := by
  cases b
  · exact sameOutside.refl _ _
  · exact s.setPc_frame _

/-- The flag is what `VF` holds in the end (R140). -/
theorem State.setVFlag_V (r : Reg) (v f : Byte) (q : Reg) :
    (s.setVFlag r v f).V q = if q = VF then f else if q = r then v else s.V q := by
  simp [State.setVFlag]
theorem State.setVFlag_frame (r : Reg) (v f : Byte) : sameOutside [.regs] s (s.setVFlag r v f) := by
  intro p hp; cases p <;> simp_all [Part.same, State.setVFlag]

@[simp] theorem State.report_err (c : Condition) : (s.report c).err = s.err ||| c.errBit := rfl
theorem State.report_frame (c : Condition) : sameOutside [.err] s (s.report c) := by
  intro p hp; cases p <;> simp_all [Part.same, State.report]

@[simp] theorem State.raise_run (c : Condition) (a : Word) (w : Option Word) :
    (s.raise c a w).run = .haltedFatal := rfl
@[simp] theorem State.raise_haltInfo (c : Condition) (a : Word) (w : Option Word) :
    (s.raise c a w).haltInfo = some ⟨c, a, w⟩ := rfl
theorem State.raise_frame (c : Condition) (a : Word) (w : Option Word) :
    sameOutside [.haltInfo, .run] s (s.raise c a w) := by
  intro p hp; cases p <;> simp_all [Part.same, State.raise]

/-! ### Call stack -/

/-- `Push` either reports or stores the value on top (R33). -/
theorem State.push_cases (v : Word) :
    (s.sp.val = 12 ∧ s.push v = s.report .stackOverflow) ∨
      ∃ (h : s.sp.val < 12), s.push v = s.setStack (s.stack.set s.sp.val v h) ⟨s.sp.val + 1, by omega⟩ := by
  by_cases h : s.sp.val = 12
  · exact .inl ⟨h, by simp [State.push, h]⟩
  · exact .inr ⟨by have := s.sp.isLt; omega, by simp [State.push, h]⟩

/-- `Pop` either reports and gives the sentinel or gives the top entry (R34). -/
theorem State.pop_cases :
    (s.sp.val = 0 ∧ s.pop = (s.report .stackUnderflow, false, Config.sentinel)) ∨
      ∃ (h : 0 < s.sp.val), s.pop =
        (s.setStack s.stack ⟨s.sp.val - 1, by have := s.sp.isLt; omega⟩, true,
          s.stack[s.sp.val - 1]'(by have := s.sp.isLt; omega)) := by
  by_cases h : s.sp.val = 0
  · exact .inl ⟨h, by simp [State.pop, h]⟩
  · exact .inr ⟨by omega, by simp [State.pop, h]⟩

theorem State.push_frame (v : Word) : sameOutside [.stack, .err] s (s.push v) := by
  rcases s.push_cases v with ⟨-, h⟩ | ⟨_, h⟩ <;> rw [h]
  · exact (s.report_frame _).mono (by simp)
  · exact (s.setStack_frame _ _).mono (by simp)

theorem State.pop_frame : sameOutside [.stack, .err] s s.pop.1 := by
  rcases s.pop_cases with ⟨-, h⟩ | ⟨_, h⟩ <;> rw [h]
  · exact (s.report_frame _).mono (by simp)
  · exact (s.setStack_frame _ _).mono (by simp)

/-! ### Outbound port and clean shutdown -/

@[simp] theorem State.emit_out (m : Message) : (s.emit m).out = s.out ++ [m] := rfl
theorem State.emit_frame (m : Message) : sameOutside [.out] s (s.emit m) := s.setOut_frame _

@[simp] theorem State.pushScreen_out : s.pushScreen.out = s.out ++ [s.screenMsg] := rfl
theorem State.pushScreen_frame : sameOutside [.out] s s.pushScreen := s.emit_frame _

@[simp] theorem State.pushSound_out : s.pushSound.out = s.out ++ [s.soundMsg] := rfl
theorem State.pushSound_frame : sameOutside [.out] s s.pushSound := s.emit_frame _

@[simp] theorem State.haltClean_run : s.haltClean.run = .haltedOk := rfl
@[simp] theorem State.haltClean_keyState : s.haltClean.keyState = 0 := rfl
@[simp] theorem State.haltClean_soundState : s.haltClean.soundState = false := rfl
@[simp] theorem State.haltClean_out : s.haltClean.out = s.out ++ [s.quiesce.finalMsg] := rfl
theorem State.haltClean_frame : sameOutside [.keyState, .soundState, .out, .run] s s.haltClean := by
  intro p hp; cases p <;> simp_all [Part.same, State.haltClean, State.quiesce, State.emit]

/-! ### Data accesses -/

@[simp] theorem State.writeData_V (k : Nat) (v : Byte) (r : Reg) : (s.writeData k v).V r = s.V r := rfl
@[simp] theorem State.writeData_dataAddr (k : Nat) (v : Byte) (j : Nat) :
    (s.writeData k v).dataAddr j = s.dataAddr j := rfl
@[simp] theorem State.writeData_byteAt (k : Nat) (v : Byte) (a : Nat) :
    (s.writeData k v).byteAt a = if a = s.dataAddr k then v else s.byteAt a := by
  simp [State.writeData]
theorem State.writeData_frame (k : Nat) (v : Byte) : sameOutside [.memory] s (s.writeData k v) := s.writeByte_frame _ _

theorem State.storeRegs_succ (k : Nat) :
    s.storeRegs (k + 1) = (s.storeRegs k).writeData k ((s.storeRegs k).V (Fin.ofNat 16 k)) := by
  simp [State.storeRegs, List.range_succ]

theorem State.storeRegs_frame (k : Nat) : sameOutside [.memory] s (s.storeRegs k) := by
  induction k with
  | zero => exact sameOutside.refl _ _
  | succ k ih => rw [s.storeRegs_succ]; exact (ih.trans ((s.storeRegs k).writeData_frame _ _)).mono (by simp)

theorem State.storeRegs_dataAddr (k j : Nat) : (s.storeRegs k).dataAddr j = s.dataAddr j := by
  have h := s.storeRegs_frame k .index (by simp)
  simp only [Part.same] at h
  simp [State.dataAddr, h]

/-- STM stores each of its registers at its own address and nothing elsewhere (R175). -/
theorem State.storeRegs_byteAt_of_ne (k : Nat) {a : Nat} (h : ∀ i, i < k → a ≠ s.dataAddr i) :
    (s.storeRegs k).byteAt a = s.byteAt a := by
  induction k with
  | zero => rfl
  | succ k ih =>
    rw [s.storeRegs_succ, State.writeData_byteAt, s.storeRegs_dataAddr, if_neg (h k (by omega)),
      ih fun i hi => h i (by omega)]

theorem State.storeRegs_byteAt {k : Nat} (hk : k ≤ 16) {i : Nat} (hi : i < k) :
    (s.storeRegs k).byteAt (s.dataAddr i) = s.V (Fin.ofNat 16 i) := by
  induction k with
  | zero => omega
  | succ k ih =>
    rw [s.storeRegs_succ, State.writeData_byteAt, s.storeRegs_dataAddr]
    have hinj := s.dataAddr_inj (j := i) (k := k) (by simp only [memSize]; omega) (by simp only [memSize]; omega)
    split
    · rename_i h; obtain rfl := hinj.1 h
      exact s.storeRegs_frame i .regs (by simp) _
    · rename_i h; exact ih (by omega) (by have := mt hinj.2 h; omega)

theorem State.loadRegs_succ (k : Nat) :
    s.loadRegs (k + 1) = (s.loadRegs k).setV (Fin.ofNat 16 k) ((s.loadRegs k).readData k) := by
  simp [State.loadRegs, List.range_succ]

theorem State.loadRegs_frame (k : Nat) : sameOutside [.regs] s (s.loadRegs k) := by
  induction k with
  | zero => exact sameOutside.refl _ _
  | succ k ih => rw [s.loadRegs_succ]; exact (ih.trans ((s.loadRegs k).setV_frame _ _)).mono (by simp)

theorem State.loadRegs_readData (k j : Nat) : (s.loadRegs k).readData j = s.readData j := by
  have hi := s.loadRegs_frame k .index (by simp)
  have hm := s.loadRegs_frame k .memory (by simp)
  simp only [Part.same] at hi hm
  simp [State.readData, State.dataAddr, hi, hm]

/-- LDM loads each of its registers and leaves the others (R176). -/
theorem State.loadRegs_V {k : Nat} (hk : k ≤ 16) (r : Reg) :
    (s.loadRegs k).V r = if r.val < k then s.readData r.val else s.V r := by
  induction k with
  | zero => rfl
  | succ k ih =>
    rw [s.loadRegs_succ, State.setV_V, s.loadRegs_readData, ih (by omega)]
    have hval : r = Fin.ofNat 16 k ↔ r.val = k := by
      rw [Fin.ext_iff]; simp only [Fin.ofNat]; rw [Nat.mod_eq_of_lt (by omega)]
    by_cases hr : r.val = k
    · rw [if_pos (hval.2 hr), if_pos (by omega), hr]
    · rw [if_neg fun h => hr (hval.1 h)]
      by_cases hlt : r.val < k
      · rw [if_pos hlt, if_pos (by omega)]
      · rw [if_neg hlt, if_neg (by omega)]

/-! ### The other agents -/

/-- A tick touches the timers and what they signal, and nothing else (R241). -/
theorem State.tick_frame : sameOutside [.delayTimer, .soundTimer, .soundState, .out] s s.tick := by
  have hd : sameOutside [.delayTimer] s s.tickDelay := by
    unfold State.tickDelay; split
    · exact s.setDelayTimer_frame _
    · exact sameOutside.refl _ _
  have hs : ∀ t : State, sameOutside [.soundTimer, .soundState, .out] t t.tickSound := by
    intro t
    unfold State.tickSound; split
    · dsimp only; split
      · exact (((t.setSoundTimer_frame _).trans (State.setSoundState_frame _ _)).trans
          (State.pushSound_frame _)).mono (by simp)
      · exact (t.setSoundTimer_frame _).mono (by simp)
    · exact sameOutside.refl _ _
  exact (hd.trans (hs _)).mono (by simp)

/-- A key message touches the mask and the listener, and nothing else (R245, R246). -/
theorem State.receiveKeys_frame (bytes : List Byte) : sameOutside [.keyState, .listener] s (s.receiveKeys bytes) := by
  unfold State.receiveKeys
  split
  · exact sameOutside.refl _ _
  · split
    · exact (s.setKeyState_frame _).mono (by simp)
    all_goals exact (s.setListener_frame _).mono (by simp)

theorem State.takeTurn_frame : sameOutside [.schedule] s s.takeTurn :=
  ((s.setSchedule_frame _).trans (State.setRounds_frame _ _)).mono (by simp)

theorem State.takeTurn_turnTaken : turnTaken s s.takeTurn := ⟨rfl, rfl⟩

@[simp] theorem State.takeTurn_fetch : s.takeTurn.fetch = s.fetch := rfl
@[simp] theorem State.takeTurn_schedule : s.takeTurn.schedule = s.pendingTurns.tail := rfl
@[simp] theorem State.takeTurn_rounds : s.takeTurn.rounds = s.roundsDrawn := rfl

/-- While the schedule lists turns, the turns to come are those, and no round is drawn. -/
theorem State.pendingTurns_of_schedule {s : State} {x : Turn} {xs : List Turn} (h : s.schedule = x :: xs) :
    s.pendingTurns = x :: xs ∧ s.roundsDrawn = s.rounds := by
  simp [State.pendingTurns, State.roundsDrawn, h]

/-- When it lists none, they are the next round. -/
theorem State.pendingTurns_of_empty {s : State} (h : s.schedule = []) :
    s.pendingTurns = turnRound s.rounds ∧ s.roundsDrawn = s.rounds + 1 := by
  simp [State.pendingTurns, State.roundsDrawn, h]

/-- There is always a turn to come. -/
theorem State.pendingTurns_eq_cons : s.pendingTurns = s.nextTurn :: s.takeTurn.schedule := by
  have hne : s.pendingTurns ≠ [] := by
    unfold State.pendingTurns turnRound
    split <;> simp
  show s.pendingTurns = s.pendingTurns.head?.getD .engine :: s.pendingTurns.tail
  cases h : s.pendingTurns with
  | nil => exact absurd h hne
  | cons x xs => rfl

end

/-! ### Sprites -/

/-- The sprite bit of a claim is the sprite bit of the draw. -/
theorem State.spriteBit_eq (s : State) (x y : Reg) (n : Nibble) (cx cy : Nat) :
    s.spriteBit x y n cx cy = spriteBitOf (s.spriteBytes n) (s.originX x) (s.originY y) cx cy := by
  unfold State.spriteBit spriteBitOf
  have hlen : (s.spriteBytes n).length = n.val := by simp [State.spriteBytes]
  rw [hlen]
  by_cases h : s.originX x ≤ cx ∧ cx < s.originX x + 8 ∧ s.originY y ≤ cy ∧ cy < s.originY y + n.val
  · have hlt : cy - s.originY y < n.val := by omega
    have : (s.spriteBytes n).getD (cy - s.originY y) 0 = s.readData (cy - s.originY y) := by
      simp [State.spriteBytes, hlt]
    rw [this]; rfl
  · rw [decide_eq_false h]; simp

end Sys2Proof.Machine
end

