-- ==== Sys2Proof/Laws/PerInstr.lean ====
section
/-! SUPPORT. Facts about every instruction as syntax, one lemma per constructor. `EncodeClass`: the class nibble of an
encoded instruction is the one 30_encoding.md rule R96 gives its row. -/

namespace Sys2Proof.Laws.EncodeClass

/-- The class of each row (30_encoding.md rule R96). -/
def classOf : Instr → Nat
  | .cls _ => 0
  | .ret _ => 0
  | .sys _ => 0
  | .jp _ => 1
  | .call _ => 2
  | .seB _ _ => 3
  | .sneB _ _ => 4
  | .seV _ _ _ => 5
  | .ldB _ _ => 6
  | .addB _ _ => 7
  | .ldV _ _ => 8
  | .orV _ _ => 8
  | .andV _ _ => 8
  | .xorV _ _ => 8
  | .addV _ _ => 8
  | .sub _ _ => 8
  | .shr _ _ => 8
  | .subn _ _ => 8
  | .shl _ _ => 8
  | .nop8 _ _ _ => 8
  | .sneV _ _ _ => 9
  | .ldI _ => 10
  | .jpV _ => 11
  | .rnd _ _ => 12
  | .drw _ _ _ => 13
  | .skp _ => 14
  | .sknp _ => 14
  | .nopE _ _ => 14
  | .getDT _ => 15
  | .key _ => 15
  | .setDT _ => 15
  | .setST _ => 15
  | .addI _ => 15
  | .font _ => 15
  | .bcd _ => 15
  | .stm _ => 15
  | .ldm _ => 15
  | .nopF _ _ => 15

/-- The encoded word falls in the class of its row. -/
def Statement (i : Instr) : Prop := (opClass (encode i)).val = classOf i

theorem cls (ign : Nibble) : Statement (.cls ign) := by
  have := ign.isLt
  simp only [Statement, opClass_val, encode, classOf, BitVec.toNat_ofNat]; omega
theorem ret (ign : Nibble) : Statement (.ret ign) := by
  have := ign.isLt
  simp only [Statement, opClass_val, encode, classOf, BitVec.toNat_ofNat]; omega
theorem sys (nnn : Imm12) : Statement (.sys nnn) := by
  have := nnn.isLt
  simp only [Statement, opClass_val, encode, classOf, BitVec.toNat_ofNat]; omega
theorem jp (nnn : Imm12) : Statement (.jp nnn) := by
  have := nnn.isLt
  simp only [Statement, opClass_val, encode, classOf, BitVec.toNat_ofNat]; omega
theorem call (nnn : Imm12) : Statement (.call nnn) := by
  have := nnn.isLt
  simp only [Statement, opClass_val, encode, classOf, BitVec.toNat_ofNat]; omega
theorem seB (x : Reg) (nn : Byte) : Statement (.seB x nn) := by
  have := x.isLt; have := nn.isLt
  simp only [Statement, opClass_val, encode, classOf, BitVec.toNat_ofNat]; omega
theorem sneB (x : Reg) (nn : Byte) : Statement (.sneB x nn) := by
  have := x.isLt; have := nn.isLt
  simp only [Statement, opClass_val, encode, classOf, BitVec.toNat_ofNat]; omega
theorem seV (x : Reg) (y : Reg) (ign : Nibble) : Statement (.seV x y ign) := by
  have := x.isLt; have := y.isLt; have := ign.isLt
  simp only [Statement, opClass_val, encode, classOf, BitVec.toNat_ofNat]; omega
theorem ldB (x : Reg) (nn : Byte) : Statement (.ldB x nn) := by
  have := x.isLt; have := nn.isLt
  simp only [Statement, opClass_val, encode, classOf, BitVec.toNat_ofNat]; omega
theorem addB (x : Reg) (nn : Byte) : Statement (.addB x nn) := by
  have := x.isLt; have := nn.isLt
  simp only [Statement, opClass_val, encode, classOf, BitVec.toNat_ofNat]; omega
theorem ldV (x : Reg) (y : Reg) : Statement (.ldV x y) := by
  have := x.isLt; have := y.isLt
  simp only [Statement, opClass_val, encode, classOf, BitVec.toNat_ofNat]; omega
theorem orV (x : Reg) (y : Reg) : Statement (.orV x y) := by
  have := x.isLt; have := y.isLt
  simp only [Statement, opClass_val, encode, classOf, BitVec.toNat_ofNat]; omega
theorem andV (x : Reg) (y : Reg) : Statement (.andV x y) := by
  have := x.isLt; have := y.isLt
  simp only [Statement, opClass_val, encode, classOf, BitVec.toNat_ofNat]; omega
theorem xorV (x : Reg) (y : Reg) : Statement (.xorV x y) := by
  have := x.isLt; have := y.isLt
  simp only [Statement, opClass_val, encode, classOf, BitVec.toNat_ofNat]; omega
theorem addV (x : Reg) (y : Reg) : Statement (.addV x y) := by
  have := x.isLt; have := y.isLt
  simp only [Statement, opClass_val, encode, classOf, BitVec.toNat_ofNat]; omega
theorem sub (x : Reg) (y : Reg) : Statement (.sub x y) := by
  have := x.isLt; have := y.isLt
  simp only [Statement, opClass_val, encode, classOf, BitVec.toNat_ofNat]; omega
theorem shr (x : Reg) (y : Reg) : Statement (.shr x y) := by
  have := x.isLt; have := y.isLt
  simp only [Statement, opClass_val, encode, classOf, BitVec.toNat_ofNat]; omega
theorem subn (x : Reg) (y : Reg) : Statement (.subn x y) := by
  have := x.isLt; have := y.isLt
  simp only [Statement, opClass_val, encode, classOf, BitVec.toNat_ofNat]; omega
theorem shl (x : Reg) (y : Reg) : Statement (.shl x y) := by
  have := x.isLt; have := y.isLt
  simp only [Statement, opClass_val, encode, classOf, BitVec.toNat_ofNat]; omega
theorem nop8 (x : Nibble) (y : Nibble) (n : Nibble) : Statement (.nop8 x y n) := by
  have := x.isLt; have := y.isLt; have := n.isLt
  simp only [Statement, opClass_val, encode, classOf, BitVec.toNat_ofNat]; omega
theorem sneV (x : Reg) (y : Reg) (ign : Nibble) : Statement (.sneV x y ign) := by
  have := x.isLt; have := y.isLt; have := ign.isLt
  simp only [Statement, opClass_val, encode, classOf, BitVec.toNat_ofNat]; omega
theorem ldI (nnn : Imm12) : Statement (.ldI nnn) := by
  have := nnn.isLt
  simp only [Statement, opClass_val, encode, classOf, BitVec.toNat_ofNat]; omega
theorem jpV (nnn : Imm12) : Statement (.jpV nnn) := by
  have := nnn.isLt
  simp only [Statement, opClass_val, encode, classOf, BitVec.toNat_ofNat]; omega
theorem rnd (x : Reg) (nn : Byte) : Statement (.rnd x nn) := by
  have := x.isLt; have := nn.isLt
  simp only [Statement, opClass_val, encode, classOf, BitVec.toNat_ofNat]; omega
theorem drw (x : Reg) (y : Reg) (n : Nibble) : Statement (.drw x y n) := by
  have := x.isLt; have := y.isLt; have := n.isLt
  simp only [Statement, opClass_val, encode, classOf, BitVec.toNat_ofNat]; omega
theorem skp (x : Reg) : Statement (.skp x) := by
  have := x.isLt
  simp only [Statement, opClass_val, encode, classOf, BitVec.toNat_ofNat]; omega
theorem sknp (x : Reg) : Statement (.sknp x) := by
  have := x.isLt
  simp only [Statement, opClass_val, encode, classOf, BitVec.toNat_ofNat]; omega
theorem nopE (x : Nibble) (nn : Byte) : Statement (.nopE x nn) := by
  have := x.isLt; have := nn.isLt
  simp only [Statement, opClass_val, encode, classOf, BitVec.toNat_ofNat]; omega
theorem getDT (x : Reg) : Statement (.getDT x) := by
  have := x.isLt
  simp only [Statement, opClass_val, encode, classOf, BitVec.toNat_ofNat]; omega
theorem key (x : Reg) : Statement (.key x) := by
  have := x.isLt
  simp only [Statement, opClass_val, encode, classOf, BitVec.toNat_ofNat]; omega
theorem setDT (x : Reg) : Statement (.setDT x) := by
  have := x.isLt
  simp only [Statement, opClass_val, encode, classOf, BitVec.toNat_ofNat]; omega
theorem setST (x : Reg) : Statement (.setST x) := by
  have := x.isLt
  simp only [Statement, opClass_val, encode, classOf, BitVec.toNat_ofNat]; omega
theorem addI (x : Reg) : Statement (.addI x) := by
  have := x.isLt
  simp only [Statement, opClass_val, encode, classOf, BitVec.toNat_ofNat]; omega
theorem font (x : Reg) : Statement (.font x) := by
  have := x.isLt
  simp only [Statement, opClass_val, encode, classOf, BitVec.toNat_ofNat]; omega
theorem bcd (x : Reg) : Statement (.bcd x) := by
  have := x.isLt
  simp only [Statement, opClass_val, encode, classOf, BitVec.toNat_ofNat]; omega
theorem stm (x : Reg) : Statement (.stm x) := by
  have := x.isLt
  simp only [Statement, opClass_val, encode, classOf, BitVec.toNat_ofNat]; omega
theorem ldm (x : Reg) : Statement (.ldm x) := by
  have := x.isLt
  simp only [Statement, opClass_val, encode, classOf, BitVec.toNat_ofNat]; omega
theorem nopF (x : Nibble) (nn : Byte) : Statement (.nopF x nn) := by
  have := x.isLt; have := nn.isLt
  simp only [Statement, opClass_val, encode, classOf, BitVec.toNat_ofNat]; omega

end Sys2Proof.Laws.EncodeClass
end

