-- ==== Sys2Proof/Laws/Step.lean ====
section
/-! SUPPORT. What a step can do, said once: every instruction answers a next state, and a step is a tick, a key
message, a fatal fetch, or one instruction. -/

namespace Sys2Proof.Machine

/-- No instruction faults and none is refused: the fatal SYS and the halting JP answer the halted state (R222, R231). -/
theorem exec_next (i : Instr) (s : State) : ∃ t, exec i s = .next t := by
  cases i
  case ret =>
    simp only [exec, execRet]
    split <;> exact ⟨_, rfl⟩
  case jp =>
    simp only [exec, execJp]
    split <;> exact ⟨_, rfl⟩
  case key =>
    simp only [exec, execKey]
    split <;> exact ⟨_, rfl⟩
  case addI =>
    simp only [exec, execAddI]
    split <;> exact ⟨_, rfl⟩
  case setST =>
    simp only [exec, execSetST]
    split <;> exact ⟨_, rfl⟩
  all_goals exact ⟨_, rfl⟩

/-- The engine step: a fatal fetch or one instruction (R92). -/
theorem engineStep_cases {s t : State} (h : engineStep s = .next t) :
    (s.fetch = none ∧ t = s.raise .outOfBoundsFetch s.pc none) ∨
      ∃ w, s.fetch = some w ∧ exec (decode w) s.advance = .next t := by
  unfold engineStep at h
  split at h
  · rename_i hf; cases h; exact .inl ⟨hf, rfl⟩
  · rename_i w hf; exact .inr ⟨w, hf, h⟩

/-- A step is taken only while `RUN` is `RUNNING`, by the agent whose turn it is (R223, R235). -/
theorem step_cases {s t : State} (h : step s = .next t) :
    s.run = .running ∧
      ((s.nextTurn = .tick ∧ t = s.takeTurn.tick) ∨
        (∃ bytes, s.nextTurn = .keyMessage bytes ∧ t = s.takeTurn.receiveKeys bytes) ∨
        (s.nextTurn = .engine ∧ engineStep s.takeTurn = .next t)) := by
  unfold step at h
  split at h
  · cases h
  · cases h
  · rename_i hr
    refine ⟨hr, ?_⟩
    split at h
    · rename_i ht; exact .inr (.inr ⟨ht, h⟩)
    · rename_i ht; cases h; exact .inl ⟨ht, rfl⟩
    · rename_i bytes ht; cases h; exact .inr (.inl ⟨bytes, ht, rfl⟩)

/-- Where the fetch succeeds, and what it reads (R62). -/
theorem State.fetch_eq_some_iff (s : State) (w : Word) :
    s.fetch = some w ↔ s.pc.toNat ≤ 0xFFE ∧ w = wordOfBytes (s.byteAt s.pc.toNat) (s.byteAt (s.pc.toNat + 1)) := by
  unfold State.fetch
  split
  · simp; omega
  · simp only [Option.some.injEq, eq_comm (a := w)]
    constructor
    · intro h; exact ⟨by omega, h⟩
    · exact fun h => h.2

/-- Where the fetch leaves memory (R62). -/
theorem State.fetch_eq_none_iff (s : State) : s.fetch = none ↔ 0xFFE < s.pc.toNat := by
  unfold State.fetch
  split <;> simp <;> omega

/-- The engine's turn is a successful fetch away from one instruction. -/
theorem State.running_eq_some_iff (s : State) (i : Instr) :
    s.running? = some i ↔
      s.run = .running ∧ s.nextTurn = .engine ∧ ∃ w, s.fetch = some w ∧ decode w = i := by
  unfold State.running?
  cases hr : s.run <;> cases ht : s.nextTurn <;> simp [Option.map_eq_some_iff]

/-- While the engine runs an instruction, the step is that instruction after the prologue (R92). -/
theorem step_of_running {s : State} {i : Instr} (h : s.running? = some i) :
    step s = exec i s.takeTurn.advance := by
  obtain ⟨hr, ht, w, hf, rfl⟩ := (s.running_eq_some_iff i).1 h
  simp [step, hr, ht, engineStep, hf]

/-! ### Turns -/

/-- An endless order in which neither the engine nor the Timer waits for ever can be cut, from any point on, into rounds
of the form of `turnRound` (R236): so no such order is left out by the free values. -/
theorem fair_order_starts_with_a_round (order : Nat → Turn) (engines : ∀ n, ∃ m, n ≤ m ∧ order m = .engine)
    (ticks : ∀ n, ∃ m, n ≤ m ∧ order m = .tick) (n : Nat) :
    ∃ before between, ∃ m, n < m ∧
      (List.range' n (m - n)).map order = before ++ .engine :: (between ++ [.tick]) := by
  obtain ⟨e, hne, he⟩ := engines n
  obtain ⟨k, hek, hk⟩ := ticks (e + 1)
  refine ⟨(List.range' n (e - n)).map order, (List.range' (e + 1) (k - (e + 1))).map order, k + 1, by omega, ?_⟩
  have hlen : k + 1 - n = (e - n) + (1 + ((k - (e + 1)) + 1)) := by omega
  rw [hlen, ← List.range'_append_1, ← List.range'_append_1, ← List.range'_append_1]
  have h1 : n + (e - n) = e := by omega
  have h2 : e + 1 + (k - (e + 1)) = k := by omega
  simp [h1, h2, he, hk]

/-- What leaves the turns to come alone after a turn has been taken leaves that turn taken. -/
theorem turnTaken.of_frame {s t : State} {ps : List Part} (hp : Part.schedule ∉ ps)
    (h : sameOutside ps s.takeTurn t) : turnTaken s t := by
  obtain ⟨h1, h2⟩ := h .schedule hp
  exact ⟨h1, h2⟩

end Sys2Proof.Machine
end

