-- ==== Sys2Proof/Tests/Slice0.lean ====
section
/-! SUPPORT. The model's own tests. Expected values come from spec/95_test_vectors.md (sections 1, 2) or are worked out
by hand from the rule named. The last part shows, for every obligation with hypotheses, states and operands that meet
them. -/

namespace Sys2Proof.Machine.Tests

/-- The state after one step from `s` with the word `w` at `pc`, the engine's turn first. -/
def after (s : State) (w : Nat) : Option State :=
  match step (s.withFetchWord 16 w) with
  | .next t => some t
  | .fault _ | .refused _ => none

/-- What `f` sees of the state after the word `w`. -/
def see {α : Type} (s : State) (w : Nat) (f : State → α) : Option α := (after s w).map f

/-- What `f` sees of the state after one step of whichever agent is next. -/
def seeStep {α : Type} (s : State) (f : State → α) : Option α :=
  match step s with
  | .next t => some (f t)
  | .fault _ | .refused _ => none

/-- Reset with V1 = `a`, V2 = `b` and VF = 0x77: the start states of 95 section 2.3. -/
def ab (a b : Byte) : State := ((State.reset.setV 1 a).setV 2 b).setV 15 0x77

/-- Reset with the index register at 0x300 and one sprite byte there: the start states of 95 section 2.5. -/
def sprite (b : Byte) : State := (State.reset.setIndex 0x300).writeByte 0x300 b

/-- The same state in a mode (strictCosmac, romCompatibility). -/
def mode (s : State) (strict compat : Bool) : State := s.withModes strict compat

/-! ### Syntax: ill-formed terms are refused (30_encoding.md rules R96, R98) -/

theorem test_wellFormed_refuses_sys :
    (Instr.sys 0x0E0).wellFormed = false ∧ (Instr.sys 0x7EE).wellFormed = false ∧
      (Instr.sys 0x0E1).wellFormed = true := by decide

theorem test_wellFormed_refuses_nop8 :
    (Instr.nop8 1 2 0).wellFormed = false ∧ (Instr.nop8 1 2 7).wellFormed = false ∧
      (Instr.nop8 1 2 14).wellFormed = false ∧ (Instr.nop8 1 2 8).wellFormed = true := by decide

theorem test_wellFormed_refuses_nopE :
    (Instr.nopE 1 0x9E).wellFormed = false ∧ (Instr.nopE 1 0xA1).wellFormed = false ∧
      (Instr.nopE 1 0x9F).wellFormed = true := by decide

theorem test_wellFormed_refuses_nopF :
    (∀ nn : Byte, nn ∈ [0x07, 0x0A, 0x15, 0x18, 0x1E, 0x29, 0x33, 0x55, 0x65] →
      (Instr.nopF 1 nn).wellFormed = false) ∧ (Instr.nopF 1 0x30).wellFormed = true := by decide

/-! ### Decode: the table of 95_test_vectors.md section 2.1 -/

theorem test_decode_class0 :
    decode 0x00E0 = .cls 0 ∧ decode 0x0AE0 = .cls 10 ∧ decode 0x00EE = .ret 0 ∧ decode 0x07EE = .ret 7 ∧
      decode 0x0000 = .sys 0 ∧ decode 0x0100 = .sys 0x100 ∧ decode 0x0FFF = .sys 0xFFF := by decide

theorem test_decode_flow :
    decode 0x1ABC = .jp 0xABC ∧ decode 0x2300 = .call 0x300 ∧ decode 0x3A42 = .seB 10 0x42 ∧
      decode 0x4A42 = .sneB 10 0x42 ∧ decode 0x5AB0 = .seV 10 11 0 ∧ decode 0x5ABF = .seV 10 11 15 ∧
      decode 0x9AB0 = .sneV 10 11 0 ∧ decode 0x9AB5 = .sneV 10 11 5 ∧ decode 0xB210 = .jpV 0x210 := by decide

theorem test_decode_alu :
    decode 0x6C7F = .ldB 12 0x7F ∧ decode 0x7C01 = .addB 12 0x01 ∧ decode 0x8AB0 = .ldV 10 11 ∧
      decode 0x8AB1 = .orV 10 11 ∧ decode 0x8AB2 = .andV 10 11 ∧ decode 0x8AB3 = .xorV 10 11 ∧
      decode 0x8AB4 = .addV 10 11 ∧ decode 0x8AB5 = .sub 10 11 ∧ decode 0x8AB6 = .shr 10 11 ∧
      decode 0x8AB7 = .subn 10 11 ∧ decode 0x8ABE = .shl 10 11 ∧ decode 0x8AB8 = .nop8 10 11 8 ∧
      decode 0x8ABF = .nop8 10 11 15 ∧ decode 0xC1FF = .rnd 1 0xFF := by decide

theorem test_decode_display_and_keys :
    decode 0xD125 = .drw 1 2 5 ∧ decode 0xE19E = .skp 1 ∧ decode 0xE1A1 = .sknp 1 ∧ decode 0xE19F = .nopE 1 0x9F ∧
      decode 0xEFFF = .nopE 15 0xFF := by decide

theorem test_decode_classF :
    decode 0xF107 = .getDT 1 ∧ decode 0xF10A = .key 1 ∧ decode 0xF115 = .setDT 1 ∧ decode 0xF118 = .setST 1 ∧
      decode 0xF11E = .addI 1 ∧ decode 0xF129 = .font 1 ∧ decode 0xF133 = .bcd 1 ∧ decode 0xF155 = .stm 1 ∧
      decode 0xF165 = .ldm 1 ∧ decode 0xF130 = .nopF 1 0x30 ∧ decode 0xFFFF = .nopF 15 0xFF ∧
      decode 0xA123 = .ldI 0x123 := by decide

/-- The fields of 0xD7A5, 95 section 2.1. -/
theorem test_fields :
    opClass 0xD7A5 = 13 ∧ fieldX 0xD7A5 = 7 ∧ fieldY 0xD7A5 = 10 ∧ fieldN 0xD7A5 = 5 ∧ fieldNN 0xD7A5 = 0xA5 ∧
      fieldNNN 0xD7A5 = 0x7A5 := by decide

theorem test_encode :
    encode (.drw 1 2 5) = 0xD125 ∧ encode (.sub 1 2) = 0x8125 ∧ encode (.stm 15) = 0xFF55 ∧
      encodeBytes (.jp 0x234) = [0x12, 0x34] := by decide

theorem test_decodeTableWord :
    decodeTableWord 16 0xF118 = some (.setST 1) ∧ decodeTableWord 16 0x2300 = some (.call 0x300) := by decide

/-- Fewer than two bytes are no instruction (R90); bytes past the two are left (R61). -/
theorem test_decodeBytes :
    decodeBytes [0x12] = .error .truncated ∧ decodeBytes [0x12, 0x34, 0x56] = .ok (.jp 0x234, [0x56]) := ⟨rfl, rfl⟩

theorem test_opcodeTable_rows : opcodeTable.length = 38 := by decide

/-! ### Control flow: 95 section 2.2 -/

theorem test_jp : see State.reset 0x1ABC (fun t => (t.pc, t.run)) = some (0x0ABC, .running) := by decide

/-- The self-jump with the policy off: S5 and the second row of 2.2. -/
theorem test_jp_self_off :
    see { State.reset with cfg := { Cfg.standard with endOnInfiniteLoop := false } } 0x1200
      (fun t => (t.pc, t.run, t.out)) = some (0x0200, .running, []) := by decide

/-- S5: the clean shutdown. -/
theorem test_jp_self_on :
    see ((State.reset.setKeyState 0x0020).setSoundState true) 0x1200
      (fun t => (t.pc, t.keyState, t.soundState, t.run)) = some (0x0200, 0x0000, false, .haltedOk) ∧
      see ((State.reset.setKeyState 0x0020).setSoundState true) 0x1200
        (fun t => t.out.map fun m => (m.sound, m.keys)) = some [(false, 0)] := by decide

theorem test_call_first_slot :
    see State.reset 0x2300 (fun t => (t.pc, t.sp, t.stack[0], t.err)) = some (0x0300, 1, 0x0202, 0) := by decide

theorem test_call_full_stack :
    see { State.reset with sp := 12 } 0x2300 (fun t => (t.pc, t.sp, t.stack == State.reset.stack, t.err)) =
      some (0x0300, 12, true, 1) := by decide

theorem test_ret :
    see { State.reset with pc := 0x300, sp := 1, stack := State.reset.stack.set 0 0x0204 } 0x00EE
      (fun t => (t.pc, t.sp, t.stack[0], t.err)) = some (0x0204, 0, 0x0204, 0) := by decide

theorem test_ret_empty_stack :
    see { State.reset with pc := 0x300 } 0x07EE (fun t => (t.pc, t.sp, t.err, t.run)) =
      some (0x0302, 0, 2, .running) := by decide

theorem test_seB :
    see (State.reset.setV 3 0x1F) 0x331F (·.pc) = some 0x0204 ∧
      see (State.reset.setV 3 0x20) 0x331F (·.pc) = some 0x0202 := by decide

theorem test_sneB :
    see (State.reset.setV 3 0x1F) 0x431F (·.pc) = some 0x0202 ∧
      see (State.reset.setV 3 0x20) 0x431F (·.pc) = some 0x0204 := by decide

theorem test_seV :
    see (ab 7 7) 0x512F (·.pc) = some 0x0204 ∧ see (ab 7 8) 0x5120 (·.pc) = some 0x0202 := by decide

theorem test_sneV :
    see (ab 7 8) 0x9123 (·.pc) = some 0x0204 ∧ see (ab 7 7) 0x9120 (·.pc) = some 0x0202 := by decide

theorem test_jpV_own_register :
    see ((State.reset.setV 0 0x04).setV 2 0x10) 0xB210 (·.pc) = some 0x0220 := by decide

theorem test_jpV_in_the_modes :
    see (mode ((State.reset.setV 0 0x04).setV 2 0x10) false true) 0xB210 (·.pc) = some 0x0214 ∧
      see (mode ((State.reset.setV 0 0x04).setV 2 0x10) true false) 0xB210 (·.pc) = some 0x0214 := by decide

/-- 95 section 2.7: `pc` keeps its advanced value, and `HALT_INFO` has the fetch address and the word. -/
theorem test_sys :
    see State.reset 0x0123 (fun t => (t.run, t.haltInfo, t.pc)) =
      some (.haltedFatal, some ⟨.machineCodeUnsupported, 0x0200, some 0x0123⟩, 0x0202) := by decide

/-- 95 section 2.7: the fetch at 0xFFF is fatal, and `pc` keeps its value. -/
theorem test_fetch_at_the_last_byte :
    seeStep { State.reset with pc := 0x0FFF, schedule := [.engine] } (fun t => (t.run, t.haltInfo, t.pc)) =
      some (.haltedFatal, some ⟨.outOfBoundsFetch, 0x0FFF, none⟩, 0x0FFF) := by decide

/-- 95 sections 2.1 and 2.7: the last word of memory and an odd address are fetched as they stand. -/
theorem test_fetch_at_the_last_word_and_odd :
    see { State.reset with pc := 0x0FFE } 0x6A07 (fun t => (t.V 10, t.pc)) = some (7, 0x1000) ∧
      see { State.reset with pc := 0x0201 } 0x6A07 (fun t => (t.V 10, t.pc)) = some (7, 0x203) := by decide

/-! ### Arithmetic and logic: 95 sections 1 and 2.3 -/

theorem test_ldB : see State.reset 0x6A7F (fun t => (t.V 10, t.pc)) = some (0x7F, 0x0202) := by decide

theorem test_addB :
    see ((State.reset.setV 0 0xFF).setV 15 0x77) 0x7002 (fun t => (t.V 0, t.V 15)) = some (0x01, 0x77) ∧
      see (State.reset.setV 15 0xFF) 0x7F02 (·.V 15) = some 0x01 := by decide

theorem test_ldV :
    see (ab 0x81 0x64) 0x8120 (fun t => (t.V 1, t.V 2, t.V 15)) = some (0x64, 0x64, 0x77) := by decide

theorem test_logic :
    see (ab 0xF0 0x3C) 0x8121 (fun t => (t.V 1, t.V 15)) = some (0xFC, 0x77) ∧
      see (ab 0xF0 0x3C) 0x8122 (fun t => (t.V 1, t.V 15)) = some (0x30, 0x77) ∧
      see (ab 0xF0 0x3C) 0x8123 (fun t => (t.V 1, t.V 15)) = some (0xCC, 0x77) := by decide

theorem test_addV :
    see (ab 0xFF 0x01) 0x8124 (fun t => (t.V 1, t.V 15)) = some (0x00, 1) ∧
      see (ab 0xFF 0x00) 0x8124 (fun t => (t.V 1, t.V 15)) = some (0xFF, 0) := by decide

/-- The flag wins in `VF` (R140): word 0x8F24 with VF = 0xC8, V2 = 0x64. -/
theorem test_addV_into_VF : see (State.reset.setV 2 0x64 |>.setV 15 0xC8) 0x8F24 (·.V 15) = some 1 := by decide

theorem test_sub :
    see (ab 0x03 0x0A) 0x8125 (fun t => (t.V 1, t.V 15)) = some (0xF9, 0) ∧
      see (ab 0x05 0x05) 0x8125 (fun t => (t.V 1, t.V 15)) = some (0x00, 0) := by decide

theorem test_subn :
    see (ab 0x03 0x0A) 0x8127 (fun t => (t.V 1, t.V 15)) = some (0x07, 1) ∧
      see (ab 0x80 0x01) 0x8127 (fun t => (t.V 1, t.V 15)) = some (0x81, 0) := by decide

theorem test_shr :
    see (ab 0x81 0x40) 0x8126 (fun t => (t.V 1, t.V 15)) = some (0x40, 1) ∧
      see (mode (ab 0x0A 0x03) true false) 0x8126 (fun t => (t.V 1, t.V 15)) = some (0x01, 1) := by decide

theorem test_shl :
    see (ab 0xF0 0x3C) 0x812E (fun t => (t.V 1, t.V 15)) = some (0xE0, 1) ∧
      see (mode (ab 0x01 0x80) true false) 0x812E (fun t => (t.V 1, t.V 15)) = some (0x00, 1) := by decide

/-- S3: with `x` = 15 the bit shifted out stays, not the shifted value. -/
theorem test_shifts_into_VF :
    see (State.reset.setV 15 0x03) 0x8F26 (·.V 15) = some 1 ∧
      see (State.reset.setV 15 0x81) 0x8F2E (·.V 15) = some 1 := by decide

/-- The reserved words only advance `pc`. -/
theorem test_nops :
    after State.reset 0x8128 =
        some { State.reset.withFetchWord 16 0x8128 with pc := 0x202, schedule := [] } ∧
      after State.reset 0xE09F =
        some { State.reset.withFetchWord 16 0xE09F with pc := 0x202, schedule := [] } ∧
      after State.reset 0xF130 =
        some { State.reset.withFetchWord 16 0xF130 with pc := 0x202, schedule := [] } := by decide

/-- RND with the mask 0 gives 0 for every byte drawn (95 section 2.3). -/
theorem test_rnd_mask_zero : (∀ b : Byte, b &&& 0 = 0) ∧ see State.reset 0xC100 (·.draws) = some 1 := by decide

/-! ### Index register and memory: 95 section 2.4 -/

theorem test_ldI : see State.reset 0xA2F0 (·.index) = some 0x02F0 := by decide

theorem test_addI :
    see ((ab 0x20 0).setIndex 0x0FF0) 0xF11E (fun t => (t.index, t.V 15)) = some (0x0010, 0x01) ∧
      see ((ab 0xFF 0).setIndex 0x0F00) 0xF11E (fun t => (t.index, t.V 15)) = some (0x0FFF, 0x00) := by decide

theorem test_addI_strict :
    see (mode ((ab 0x20 0).setIndex 0x0FF0) true false) 0xF11E (fun t => (t.index, t.V 15)) =
        some (0x0010, 0x77) ∧
      see (State.reset.setIndex 0x0FFE |>.setV 15 0x03) 0xFF1E (fun t => (t.index, t.V 15)) =
        some (0x0001, 0x01) := by decide

theorem test_font :
    see (ab 0x0A 0) 0xF129 (·.index) = some 0x0082 ∧ see (ab 0xFF 0) 0xF129 (·.index) = some 0x054B := by decide

theorem test_bcd_wraps :
    see ((ab 234 0).setIndex 0x0FFE) 0xF133
      (fun t => (t.byteAt 0xFFE, t.byteAt 0xFFF, t.byteAt 0x000, t.index)) = some (2, 3, 4, 0x0FFE) := by decide

theorem test_stm :
    see (mode ((((State.reset.setV 0 0x11).setV 1 0x22).setV 2 0x33).setV 3 0x44 |>.setIndex 0x400) true false) 0xF255
      (fun t => ([t.byteAt 0x400, t.byteAt 0x401, t.byteAt 0x402, t.byteAt 0x403], t.index)) =
      some ([0x11, 0x22, 0x33, 0], 0x0403) := by decide

theorem test_stm_wraps_and_keeps_index :
    see (((State.reset.setV 0 0xAA).setV 1 0xBB).setIndex 0x0FFF) 0xF155
      (fun t => (t.byteAt 0xFFF, t.byteAt 0x000, t.index)) = some (0xAA, 0xBB, 0x0FFF) := by decide

theorem test_ldm :
    see (((State.reset.setIndex 0x400).writeByte 0x400 0x11 |>.writeByte 0x401 0x22 |>.writeByte 0x402 0x33
        |>.writeByte 0x403 0x44).setV 3 0x99) 0xF265
      (fun t => ([t.V 0, t.V 1, t.V 2, t.V 3], t.index)) = some ([0x11, 0x22, 0x33, 0x99], 0x0400) := by decide

theorem test_ldm_mode_both :
    see (mode (State.reset.setIndex 0x400) true true) 0xF265 (·.index) = some 0x0400 ∧
      see (mode (State.reset.setIndex 0xFFFF) true false) 0xF065 (·.index) = some 0x0000 := by decide

/-! ### Memory: the canonical form -/

/-- Writing the reset value of a byte takes it out of the list (notes/assumptions/6). -/
theorem test_memory_canonical :
    ((State.reset.writeByte 0x300 5).writeByte 0x300 0).mem = [] ∧
      ((State.reset.writeByte 0x301 5).writeByte 0x300 6).mem = [(0x300, 6), (0x301, 5)] := by decide

/-! ### Display: 95 sections 1 and 2.5 -/

theorem test_cls :
    see (State.reset.setScreen (Vector.replicate 32 (BitVec.allOnes 64)) |>.setV 15 0x77) 0x00E0
      (fun t => ([t.screen.pix 0 0, t.screen.pix 63 0, t.screen.pix 0 31, t.screen.pix 63 31], t.V 15,
        t.out.length)) = some ([false, false, false, false], 0x77, 1) := by decide

/-- S8 as corrected: the four top left pixels, and byte 0 of the message is 0xF0. -/
theorem test_drw :
    see (sprite 0xF0) 0xD011
      (fun t => ((List.range 6).map fun cx => t.screen.pix cx 0, t.V 15, (t.screen.pack).head?)) =
      some ([true, true, true, true, false, false], 0, some 0xF0) := by decide

/-- Right clip and collision: row 0xFF at column 63 over a lit pixel. -/
theorem test_drw_clips_and_collides :
    see ((sprite 0xFF).setV 0 63 |>.setScreen (Vector.replicate 32 1)) 0xD011
      (fun t => (t.screen.pix 63 0, t.screen.pix 0 0, t.V 15)) = some (false, false, 1) := by decide

set_option maxRecDepth 2000 in
/-- `x` = 15: the origin is read before `VF` is cleared (decision D12). -/
theorem test_drw_origin_from_VF :
    see ((sprite 0x80).setV 15 0x45 |>.setV 1 2) 0xDF11 (fun t => (t.screen.pix 5 2, t.V 15)) = some (true, 0) := by
  decide

/-- Packing alone: pixel (9,3) is byte 25 = 0x40, pixel (63,31) is bit 0 of byte 255. -/
theorem test_pack :
    (Screen.clear.setPix 9 3 true).pack[25]? = some 0x40 ∧
      (Screen.clear.setPix 63 31 true).pack[255]? = some 0x01 := by decide

/-! ### Keys, timers, sound: 95 section 2.6 -/

theorem test_skp :
    see ((ab 5 0).setKeyState 0x0020) 0xE19E (·.pc) = some 0x0204 ∧
      see ((ab 0x15 0).setKeyState 0xFFFF) 0xE19E (·.pc) = some 0x0202 := by decide

theorem test_sknp :
    see ((ab 5 0).setKeyState 0x0020) 0xE1A1 (·.pc) = some 0x0202 ∧
      see ((ab 0x10 0).setKeyState 0xFFFF) 0xE1A1 (·.pc) = some 0x0204 := by decide

theorem test_key_waits :
    see { State.reset.setV 3 0x99 with pc := 0x210 } 0xF30A (fun t => (t.pc, t.V 3)) = some (0x0210, 0x99) := by
  decide

theorem test_key_lowest :
    see { State.reset.setKeyState 0x0140 with pc := 0x210 } 0xF30A (fun t => (t.pc, t.V 3)) =
        some (0x0212, 0x06) ∧
      see { State.reset.setKeyState 0x8000 with pc := 0x210 } 0xF30A (·.V 3) = some 0x0F := by decide

theorem test_getDT :
    see (State.reset.setDelayTimer 0x3C) 0xF207 (fun t => (t.V 2, t.delayTimer)) = some (0x3C, 0x3C) := by decide

theorem test_setDT :
    see (State.reset.setV 2 0x3C) 0xF215 (fun t => (t.delayTimer, t.out)) = some (0x3C, []) := by decide

theorem test_setST_toggles :
    see ((ab 0x1E 0).setKeyState 0x0002) 0xF118 (fun t => (t.soundState, t.out)) =
      some (true, [⟨true, 0x0002, none, 64, 32⟩]) := by decide

theorem test_setST_silent :
    see ((ab 0x1E 0).setSoundState true) 0xF118 (fun t => (t.soundState, t.out)) = some (true, []) := by decide

/-- The label of a waiting KEY is `Retry`, of a self-jump `HaltClean` (R13). -/
theorem test_stepOutcome :
    stepOutcome (State.reset.withFetchWord 16 0xF30A) = some .retry ∧
      stepOutcome (State.reset.withFetchWord 16 0x1200) = some .haltClean ∧
      stepOutcome State.reset = some (.fatal .machineCodeUnsupported) := by decide

/-! ### The Timer, the Key Listener, reset and launch: 95 section 2.8 -/

/-- The state before tick 1 of 95 section 2.8. -/
def ticking : State :=
  { State.reset with delayTimer := 2, soundTimer := 2, soundState := true, keyState := 4, schedule := [.tick, .tick] }

theorem test_tick_counts_down :
    seeStep ticking (fun t => (t.delayTimer, t.soundTimer, t.soundState, t.out)) = some (1, 1, true, []) := by decide

theorem test_tick_sound_off :
    seeStep { ticking with delayTimer := 1, soundTimer := 1 }
      (fun t => (t.delayTimer, t.soundTimer, t.soundState, t.out)) =
      some (0, 0, false, [⟨false, 4, none, 64, 32⟩]) := by decide

theorem test_key_message :
    seeStep { State.reset with schedule := [.keyMessage [0x80, 0x01]] } (·.keyState) = some 0x8001 := by decide

theorem test_key_message_malformed :
    seeStep { State.reset with keyState := 7, schedule := [.keyMessage [0x01]] }
        (fun t => (t.keyState, t.listener, t.run)) = some (7, .dead, .running) ∧
      seeStep { State.reset with listener := .dead, schedule := [.keyMessage [0, 0x20]] } (·.keyState) = some 0 := by
  decide

/-- Every round holds an engine step and a tick, whatever the free orders are (R236). -/
theorem test_round_holds_engine_and_tick (k : Nat) : .engine ∈ turnRound k ∧ .tick ∈ turnRound k := by
  simp [turnRound]

/-- The image `12 00` of 95 section 2.8, and an image that does not fit. -/
theorem test_launch :
    (launch Cfg.standard [0x12, 0x00]).map (fun s => (s.byteAt 0x200, s.byteAt 0x201, s.byteAt 0x3FF, s.pc)) =
        some (0x12, 0x00, 0, 0x200) ∧
      (launch { Cfg.standard with romBase := 0xFFF } [0x12, 0x00]).isNone = true := by decide

/-! ### The hypotheses of the obligations can be met -/

/-- A running machine has a step whoever's turn it is; used for the witnesses below. -/
theorem exists_next_tick (s : State) (hr : s.run = .running) (ht : s.nextTurn = .tick) :
    step s = .next s.takeTurn.tick := by simp [step, hr, ht]

theorem witness_DecodeOfEncode : (Instr.nopF 15 0xFF).wellFormed = true ∧ (Instr.cls 15).wellFormed = true := by
  decide

theorem witness_IgnoredNibblesPlayNoPart :
    (opClass 0x0FE0 = 0 ∧ fieldNN 0x0FE0 = 0xE0) ∧ (opClass 0x01EE = 0 ∧ fieldNN 0x01EE = 0xEE) ∧
      opClass 0x5121 = 5 ∧ opClass 0x912F = 9 := by decide

theorem witness_StepRunsTheDecodedInstruction :
    (State.reset.withFetchWord 16 0x8125).run = .running ∧
      (State.reset.withFetchWord 16 0x8125).nextTurn = .engine ∧
      (State.reset.withFetchWord 16 0x8125).pc.toNat ≤ 0xFFE ∧
      decode ((State.reset.withFetchWord 16 0x8125).byteAt 0x200 ++
        (State.reset.withFetchWord 16 0x8125).byteAt 0x201) = .sub 1 2 := by decide

theorem witness_FetchOutsideMemoryIsFatal :
    ({ State.reset with pc := 0xFFF, schedule := [.engine] } : State).run = .running ∧
      ({ State.reset with pc := 0xFFF, schedule := [.engine] } : State).nextTurn = .engine ∧
      0xFFE < ({ State.reset with pc := 0xFFF, schedule := [.engine] } : State).pc.toNat ∧
      0xFFE < ({ State.reset with pc := 0x10FE, schedule := [.engine] } : State).pc.toNat := by decide

theorem witness_OnlyAHaltedMachineHasNoStep :
    State.reset.run = .running ∧ (State.reset.setRun .haltedOk).run = .haltedOk ∧
      (State.reset.setRun .haltedFatal).run = .haltedFatal := by decide

/-- Each label of `StepOutcomeLabels` is met: a waiting KEY, a self-jump, a SYS word, a fetch outside memory. -/
theorem witness_StepOutcomeLabels :
    (State.reset.withFetchWord 16 0xF30A).run = .running ∧
      stepOutcome (State.reset.withFetchWord 16 0xF30A) = some .retry ∧
      stepOutcome (State.reset.withFetchWord 16 0x1200) = some .haltClean ∧
      stepOutcome (State.reset.withFetchWord 16 0x0000) = some (.fatal .machineCodeUnsupported) ∧
      stepOutcome { State.reset with pc := 0xFFF } = some (.fatal .outOfBoundsFetch) ∧
      stepOutcome (State.reset.withFetchWord 16 0x1202) = some .continues := by decide

/-- Both clauses: a step with turns listed, and one with none, whatever the next round is. -/
theorem witness_TurnsAreTakenInOrder :
    (ticking.schedule = .tick :: [.tick] ∧ ∃ t, step ticking = .next t) ∧
      State.reset.schedule = [] ∧ ∃ t, step State.reset = .next t := by
  refine ⟨⟨rfl, _, exists_next_tick _ rfl rfl⟩, rfl, ?_⟩
  have hr : State.reset.run = .running := rfl
  simp only [step, hr]
  split
  · unfold engineStep
    split
    · exact ⟨_, rfl⟩
    · exact exec_next _ _
  · exact ⟨_, rfl⟩
  · exact ⟨_, rfl⟩

/-- A running state with turns listed and one with none, for both agents. -/
theorem witness_NoAgentWaitsForEver :
    State.reset.run = .running ∧ ticking.run = .running ∧
      (Turn.engine = .engine ∨ Turn.engine = .tick) ∧ (Turn.tick = .engine ∨ Turn.tick = .tick) := by decide

/-- STM V1 stores over the next word: `I` at `pc`, `k` = 0; and at the last word of memory. -/
theorem witness_StoresAreSeenByTheNextFetch :
    (0 + 1 ≤ (1 : Reg).val ∧ (State.reset.setIndex 0x200).pc.toNat ≤ 0xFFE ∧
      (State.reset.setIndex 0x200).dataAddr 0 = (State.reset.setIndex 0x200).pc.toNat) ∧
      (14 + 1 ≤ (15 : Reg).val ∧ ({ State.reset with pc := 0xFFE, index := 0xFF0 } : State).pc.toNat ≤ 0xFFE ∧
        ({ State.reset with pc := 0xFFE, index := 0xFF0 } : State).dataAddr 14 = 0xFFE) := by decide

/-- A state that meets every invariant and has a step: the hypotheses of `MemoryStaysCanonical`,
`ProgramCounterStaysBounded`, `IndexStaysTwelveBits` and `HaltRecordMatchesRun`. -/
theorem witness_invariants :
    ∃ s t : State, memoryCanonical s ∧ flowBounded s ∧ s.cfg.keepsIndexLow ∧ indexLow s ∧ haltRecorded s ∧
      step s = .next t := by
  refine ⟨{ State.reset with schedule := [.tick] }, _, ?_, ?_, ?_, ?_, ?_, exists_next_tick _ rfl rfl⟩
  · exact (rfl : Memory.wf (resetByte Cfg.standard.fontBase) [] = true)
  · exact ⟨by decide, by decide⟩
  · exact ⟨by decide, by decide⟩
  · exact Nat.zero_le _
  · exact ⟨by decide, fun _ h => by cases h⟩

/-- A launch that succeeds and reaches the last byte of memory, and one that is refused by one byte. -/
theorem witness_LaunchPlacesFontAndImage :
    (launch { Cfg.standard with romBase := 0xFFE } [0x12, 0x00]).isSome = true ∧
      (launch { Cfg.standard with romBase := 0xFFF } [0x12, 0x00]).isNone = true ∧
      (launch { Cfg.standard with fontBase := 4017 } []).isNone = true ∧
      (launch { Cfg.standard with fontBase := 4016 } []).isSome = true := by decide

theorem witness_ShiftsWithBitShiftedOut :
    0x81 = (if (ab 0x81 0x40).cfg.strictCosmac then ((ab 0x81 0x40).V 2).toNat else ((ab 0x81 0x40).V 1).toNat) := by
  decide

/-- The first clause is over words, met by one word of each class, and refused by the words beside it; the second is met
by a state that runs such a word. -/
theorem witness_ReservedWordsAreNoOps :
    (decode 0x8128).isReservedNop = true ∧ (decode 0x812E).isReservedNop = false ∧
      (decode 0xE19F).isReservedNop = true ∧ (decode 0xE19E).isReservedNop = false ∧
      (decode 0xF100).isReservedNop = true ∧ (decode 0xF165).isReservedNop = false ∧
      (State.reset.withFetchWord 16 0x8128).running? = some (.nop8 1 2 8) := by decide

/-- Both clauses: a jump elsewhere and the self-jump, `pc` being the fetch address plus 2. -/
theorem witness_JumpAndSelfJump :
    (¬((0x204 : Imm12).toNat = (State.reset.advance.pc - 2).toNat ∧
      State.reset.advance.cfg.endOnInfiniteLoop = true)) ∧
      ((0x200 : Imm12).toNat = (State.reset.advance.pc - 2).toNat ∧
        State.reset.advance.cfg.endOnInfiniteLoop = true) := by decide

theorem witness_CleanShutdown :
    (0x200 : Imm12).toNat = (State.reset.advance.pc - 2).toNat ∧
      State.reset.advance.cfg.endOnInfiniteLoop = true := by decide

/-- Both clauses of the call: 11 entries and 12 entries on the stack. -/
theorem witness_CallPushesOrReports :
    ({ State.reset with sp := 11 } : State).sp.val < 12 ∧ ({ State.reset with sp := 12 } : State).sp.val = 12 := by
  decide

/-- Both clauses of the return: 1 and 12 entries, and none. -/
theorem witness_ReturnPopsOrReports :
    ({ State.reset with sp := 1 } : State).sp.val = (0 : Fin 12).val + 1 ∧
      ({ State.reset with sp := 12 } : State).sp.val = (11 : Fin 12).val + 1 ∧ State.reset.sp.val = 0 := by decide

theorem witness_ReturnUndoesCall :
    ∃ t : State, ({ State.reset with sp := 11 } : State).sp.val < 12 ∧
      exec (.call 0x300) { State.reset with sp := 11 } = .next t ∧ t.stack = t.stack ∧ t.sp = t.sp :=
  ⟨_, by decide, rfl, rfl, rfl⟩

theorem witness_JumpWithOffset :
    (2 : Reg).val = (0x210 : Imm12).toNat / 256 ∧ (15 : Reg).val = (0xFFF : Imm12).toNat / 256 := by decide

theorem witness_GlyphAddress : State.reset.cfg.fontBase.toNat + 80 ≤ 4096 ∧ (0x0FB0 : Word).toNat + 80 ≤ 4096 := by
  decide

/-- A second draw with the same registers, right after a first one that names no `VF`. -/
theorem witness_DrawTwiceRestoresTheScreen :
    ∃ t : State, exec (.drw 0 1 1) (sprite 0xF0) = .next t ∧ t.screen = t.screen ∧
      t.originX 0 = (sprite 0xF0).originX 0 ∧ t.originY 1 = (sprite 0xF0).originY 1 ∧
      t.spriteBytes 1 = (sprite 0xF0).spriteBytes 1 :=
  ⟨_, rfl, rfl, by decide, by decide, by decide⟩

/-- The key hypothesis for the last key, pressed, and for the first number that is no key. -/
theorem witness_SkipOnKey :
    (true = (decide (((ab 15 0).V 1).toNat ≤ 15) &&
        ((ab 15 0).setKeyState 0x8000).keyState.getLsbD ((ab 15 0).V 1).toNat)) ∧
      (false = (decide (((ab 16 0).V 1).toNat ≤ 15) &&
        ((ab 16 0).setKeyState 0xFFFF).keyState.getLsbD ((ab 16 0).V 1).toNat)) := by decide

theorem witness_WaitForKey :
    State.reset.keyState = 0 ∧ (State.reset.setKeyState 0x8000).keyState ≠ 0 ∧
      (State.reset.setKeyState 0x0001).keyState ≠ 0 := by decide

/-- Sound on and off, toggling and not. -/
theorem witness_SetSoundTimer :
    true = decide (((ab 1 0).V 1).toNat > 0) ∧ true ≠ (ab 1 0).soundState ∧
      true = ((ab 1 0).setSoundState true).soundState ∧
      false = decide (((ab 0 0).V 1).toNat > 0) ∧ false = (ab 0 0).soundState := by decide

/-- The clauses of the tick: sound timer 1, 2 and 0. -/
theorem witness_TimerTick :
    ticking.run = .running ∧ ticking.nextTurn = .tick ∧ ticking.soundTimer ≠ 1 ∧
      ({ ticking with soundTimer := 1 } : State).soundTimer = 1 ∧
      ({ ticking with soundTimer := 0 } : State).soundTimer ≠ 1 := by decide

theorem witness_TimerReachesZeroAfterItsValue :
    ticking.run = .running ∧ ticking.schedule = List.replicate 2 .tick ++ [] := by decide

theorem witness_KeyMessageReplacesTheMask :
    ({ State.reset with schedule := [.keyMessage [0x80, 0x01]] } : State).run = .running ∧
      ({ State.reset with schedule := [.keyMessage [0x80, 0x01]] } : State).listener = .alive ∧
      ({ State.reset with schedule := [.keyMessage [0x80, 0x01]] } : State).nextTurn =
        .keyMessage [0x80, 0x01] := by decide

/-- Both clauses: a message of one byte and of three, and a dead listener. -/
theorem witness_MalformedMessageKillsTheListener :
    ({ State.reset with schedule := [.keyMessage [1]] } : State).nextTurn = .keyMessage [1] ∧
      ([1] : List Byte).length ≠ 2 ∧ ([1, 2, 3] : List Byte).length ≠ 2 ∧ ([] : List Byte).length ≠ 2 ∧
      (State.reset.setListener .dead).listener = .dead := by decide

theorem witness_InstructionFrames :
    (∃ t, exec (.stm 15) State.reset = .next t) ∧ ∃ t, step ticking = .next t :=
  ⟨exec_next _ _, _, exists_next_tick _ rfl rfl⟩

/-- The step of `RunEndsOnlyAsListed`, `ReportsAreStickyAndOnlyFromTheStack`, `SharedScalarsHaveTheListedWriters`,
`MessagesAreSentOnlyByTheListedSteps` and `SentMessagesInfluenceNothing`, for an instruction of each cause they list. -/
theorem witness_steps_of_listed_causes :
    ∀ w ∈ [0x1200, 0x0000, 0x2300, 0x00EE, 0xF115, 0xF118, 0x00E0, 0xD125],
      ∃ t, step (State.reset.withFetchWord 16 w) = .next t := by
  intro w _
  have hr : (State.reset.withFetchWord 16 w).run = .running := rfl
  have ht : (State.reset.withFetchWord 16 w).nextTurn = .engine := rfl
  simp only [step, hr, ht, engineStep]
  split
  · exact ⟨_, rfl⟩
  · exact exec_next _ _

/-- The causes themselves: a self-jump, a SYS word, a fetch outside memory, a CALL on a full stack, a RET on an empty
one, and the senders of R255. -/
theorem witness_listed_causes :
    (State.reset.withFetchWord 16 0x1200).running? = some (.jp 0x200) ∧
      (State.reset.withFetchWord 16 0x0000).running? = some (.sys 0) ∧
      0xFFE < ({ State.reset with pc := 0xFFF } : State).pc.toNat ∧
      ({ State.reset with sp := 12 }.withFetchWord 16 0x2300).running? = some (.call 0x300) ∧
      (State.reset.withFetchWord 16 0x00EE).running? = some (.ret 0) ∧
      (State.reset.withFetchWord 16 0xF115).running? = some (.setDT 1) ∧
      ((ab 1 0).withFetchWord 16 0xF118).running? = some (.setST 1) ∧
      (State.reset.withFetchWord 16 0x00E0).running? = some (.cls 0) ∧
      (State.reset.withFetchWord 16 0xD125).running? = some (.drw 1 2 5) := by decide

/-- A step with a message sent, one without: both cases of `sends`. -/
theorem witness_MessagesAreSentOnlyByTheListedSteps :
    ({ ticking with soundTimer := 1 } : State).sends ∧ ¬ ticking.sends := by
  refine ⟨.inl ⟨rfl, rfl, rfl⟩, ?_⟩
  rintro (⟨-, -, h⟩ | ⟨i, h, -⟩)
  · exact absurd h (by decide)
  · rw [show ticking.running? = none from rfl] at h; cases h

/-- A key message, a timer write, a tick of each timer and both ways the sound state changes: the changes of `SharedScalarsHaveTheListedWriters` occur. -/
theorem witness_SharedScalarsHaveTheListedWriters :
    seeStep { State.reset with schedule := [.keyMessage [0x80, 0x01]] }
        (fun t => decide (t.keyState ≠ State.reset.keyState)) = some true ∧
      see (State.reset.setV 2 0x3C) 0xF215 (fun t => decide (t.delayTimer ≠ State.reset.delayTimer)) = some true ∧
      seeStep ticking (fun t => decide (t.delayTimer ≠ 2 ∧ t.soundTimer ≠ 2)) = some true ∧
      seeStep { ticking with soundTimer := 1 } (fun t => decide (t.soundState ≠ ticking.soundState)) = some true ∧
      see (ab 1 0) 0xF118 (fun t => decide (t.soundState ≠ (ab 1 0).soundState)) = some true := by decide

theorem witness_ModeFlagsReachOnlySixInstructions :
    (Instr.sub 1 2).consultsModes = false ∧ ∃ t, exec (.sub 1 2) State.reset = .next t :=
  ⟨rfl, exec_next _ _⟩

end Sys2Proof.Machine.Tests
end

/-! PROOFS of the control-flow obligations (40_flow.md). -/

namespace Sys2Proof.Machine

/-! ### Address operands -/

/-- The zero extension of an immediate keeps its value (R94). -/
@[simp] theorem zext16_toNat (nnn : Imm12) : (zext16 nnn).toNat = nnn.toNat :=
  BitVec.toNat_setWidth_of_le (by decide)

theorem zext16_eq_iff (nnn : Imm12) (a : Word) : zext16 nnn = a ↔ nnn.toNat = a.toNat := by
  rw [← BitVec.toNat_inj, zext16_toNat]

/-- At most 0xFFF + 0xFF = 0x10FE, so the 16-bit sum does not wrap (R128). -/
theorem zext16_add_byte_toNat (nnn : Imm12) (b : Byte) :
    (zext16 nnn + b.setWidth 16).toNat = nnn.toNat + b.toNat := by
  have hn := nnn.isLt
  have hb := b.isLt
  rw [BitVec.toNat_add, zext16_toNat, BitVec.toNat_setWidth_of_le (by decide)]
  omega

theorem topNibble_val (nnn : Imm12) : (topNibble nnn).val = nnn.toNat / 256 := by
  have hn := nnn.isLt
  simp only [topNibble, BitVec.val_toFin, BitVec.extractLsb'_toNat, Nat.shiftRight_eq_div_pow]
  omega

/-- The register JP.V adds, under the two mode flags (R104, R128). -/
theorem State.jumpReg_eq (s : State) (nnn : Imm12) :
    s.jumpReg nnn =
      if s.cfg.strictCosmac = true ∨ s.cfg.romCompatibility = true then 0 else topNibble nnn := by
  simp only [State.jumpReg, Bool.or_eq_true]

/-! ### The instructions -/

section
variable {s : State} {nnn : Imm12}

/-- JP anywhere but to itself, or with the policy off, is a plain jump (R122). -/
theorem exec_jp_of_not_selfJump (h : ¬(nnn.toNat = s.fetchAddr.toNat ∧ s.cfg.endOnInfiniteLoop = true)) :
    exec (.jp nnn) s = .next (s.setPc (zext16 nnn)) :=
  if_neg (by rwa [zext16_eq_iff])

/-- JP to its own fetch address under the policy writes `pc` and then halts cleanly (R122, R231). -/
theorem exec_jp_of_selfJump (h : nnn.toNat = s.fetchAddr.toNat ∧ s.cfg.endOnInfiniteLoop = true) :
    exec (.jp nnn) s = .next (s.setPc (zext16 nnn)).haltClean :=
  if_pos (by rwa [zext16_eq_iff])

end

/-- `halt_clean` leaves `pc` alone (R231). -/
@[simp] theorem State.haltClean_pc (s : State) : s.haltClean.pc = s.pc := rfl

/-- Settles O25: the two clauses are the two branches of JP. -/
theorem jumpAndSelfJump : Obligations.JumpAndSelfJump := by
  intro s nnn
  constructor
  · intro h
    exact ⟨_, exec_jp_of_not_selfJump h, zext16_toNat nnn, s.setPc_frame _⟩
  · intro h
    refine ⟨_, exec_jp_of_selfJump h, ?_, State.haltClean_run _, ?_⟩
    · rw [State.haltClean_pc, State.setPc_pc, zext16_toNat]
    · rw [State.haltClean_pc, State.setPc_pc]

/-- Settles O30: both are the shared skip, SE.B on equality and SNE.B on its negation. -/
theorem skipOnByte : Obligations.SkipOnByte := by
  intro s x nn
  constructor
  · refine ⟨s.skipIf (s.V x == nn), rfl, ?_, s.skipIf_frame _⟩
    simp only [State.skipIf_pc, beq_iff_eq]
  · refine ⟨s.skipIf (s.V x != nn), rfl, ?_, s.skipIf_frame _⟩
    simp only [State.skipIf_pc, bne_iff_ne, ite_not]

/-- Settles O32: the sum does not wrap, and the register added is the one the mode flags select. -/
theorem jumpWithOffset : Obligations.JumpWithOffset := by
  intro s nnn x hx
  have htop : topNibble nnn = x := Fin.ext ((topNibble_val nnn).trans hx.symm)
  refine ⟨s.setPc (zext16 nnn + (s.V (s.jumpReg nnn)).setWidth 16), rfl, ?_, s.setPc_frame _⟩
  rw [State.setPc_pc, zext16_add_byte_toNat, State.jumpReg_eq, htop, apply_ite s.V]

end Sys2Proof.Machine

/-! PROOFS of the register load, arithmetic and logic obligations (41_alu.md). -/

namespace Sys2Proof.Machine

/-- One register write changes that register and nothing else, `VF` included (R22). -/
theorem State.setV_regsBecome (s : State) (x : Reg) (v : Byte) :
    regsBecome (fun r => if r = x then v else s.V r) s (s.setV x v) :=
  ⟨fun r => s.setV_V x r v, s.setV_frame x v⟩

/-- Byte addition is the sum of the numbers modulo 256 (R142). -/
theorem byte_add_eq_ofNat_mod (a b : Byte) : a + b = .ofNat 8 ((a.toNat + b.toNat) % 256) := by
  apply BitVec.eq_of_toNat_eq
  rw [BitVec.toNat_add, BitVec.toNat_ofNat, Nat.mod_mod]

/-- Settles O18: each is one register write, of the byte or of the sum. -/
theorem loadByteAndAddByte : Obligations.LoadByteAndAddByte := by
  intro s x nn
  constructor
  · exact ⟨s.setV x nn, rfl, s.setV_regsBecome x nn⟩
  · refine ⟨s.setV x (s.V x + nn), rfl, ?_⟩
    rw [← byte_add_eq_ofNat_mod]
    exact s.setV_regsBecome x _

/-- Settles O19: each is one register write, and none consults the configuration (R145). -/
theorem copyAndLogicWriteNoFlag : Obligations.CopyAndLogicWriteNoFlag := by
  intro s x y
  refine ⟨?copy, ?or, ?and, ?xor⟩
  case copy => exact ⟨s.setV x (s.V y), rfl, s.setV_regsBecome x _⟩
  case or => exact ⟨s.setV x (s.V x ||| s.V y), rfl, s.setV_regsBecome x _⟩
  case and => exact ⟨s.setV x (s.V x &&& s.V y), rfl, s.setV_regsBecome x _⟩
  case xor => exact ⟨s.setV x (s.V x ^^^ s.V y), rfl, s.setV_regsBecome x _⟩

end Sys2Proof.Machine

/-! PROOFS of the index register and memory obligations (42_index_memory.md). -/

namespace Sys2Proof.Machine

/-- Settles O34: `I` is written with the zero extension of `nnn`, which keeps its value. -/
theorem loadIndex : Obligations.LoadIndex := by
  intro s nnn
  refine ⟨s.setIndex (zext16 nnn), rfl, ?_, s.setIndex_frame _⟩
  rw [State.setIndex_index, zext16_toNat]

end Sys2Proof.Machine

/-! PROOFS of the outbound message obligations (60_exceptions.md). -/

namespace Sys2Proof.Machine

/-- The leftmost pixel of a row is the most significant bit of its word (R37). -/
theorem Screen.pix_eq_getLsbD (scr : Screen) {cx cy : Nat} (hcx : cx < 64) (hcy : cy < 32) :
    scr.pix cx cy = (scr[cy]).getLsbD (63 - cx) := by
  simp [Screen.pix, hcy, BitVec.getMsbD_eq_getLsbD, hcx]

/-- Settles O43: byte `cx / 8` of row `cy` starts at bit `56 - 8 * (cx / 8)` of the row, so its bit `7 - cx % 8` is
the row's bit `63 - cx`. -/
theorem screenPacking : Obligations.ScreenPacking := by
  intro scr
  refine ⟨scr.pack_length, fun cx cy hcx hcy => ?_⟩
  have hbyte : cx / 8 < 8 := by omega
  have hbit : 7 - cx % 8 < 8 := by omega
  have hcol : 56 - 8 * (cx / 8) + (7 - cx % 8) = 63 - cx := by omega
  rw [scr.pack_getD hbyte hcy, scr.pix_eq_getLsbD hcx hcy, BitVec.getLsbD_extractLsb', hcol]
  simp only [hbit, decide_true, Bool.true_and]

end Sys2Proof.Machine

/-! PROOFS. What a step starts from, what it can do, and what each instruction leaves unchanged: the layer that the
proofs about the whole machine use (10_state.md section 9, 30_encoding.md rule R92). -/

namespace Sys2Proof.Machine

/-! ### The turn taken and the prologue, field by field -/

section
variable (s : State)

@[simp] theorem State.takeTurn_regs : s.takeTurn.regs = s.regs := rfl
@[simp] theorem State.takeTurn_pc : s.takeTurn.pc = s.pc := rfl
@[simp] theorem State.takeTurn_index : s.takeTurn.index = s.index := rfl
@[simp] theorem State.takeTurn_mem : s.takeTurn.mem = s.mem := rfl
@[simp] theorem State.takeTurn_stack : s.takeTurn.stack = s.stack := rfl
@[simp] theorem State.takeTurn_sp : s.takeTurn.sp = s.sp := rfl
@[simp] theorem State.takeTurn_delayTimer : s.takeTurn.delayTimer = s.delayTimer := rfl
@[simp] theorem State.takeTurn_soundTimer : s.takeTurn.soundTimer = s.soundTimer := rfl
@[simp] theorem State.takeTurn_screen : s.takeTurn.screen = s.screen := rfl
@[simp] theorem State.takeTurn_keyState : s.takeTurn.keyState = s.keyState := rfl
@[simp] theorem State.takeTurn_soundState : s.takeTurn.soundState = s.soundState := rfl
@[simp] theorem State.takeTurn_cfg : s.takeTurn.cfg = s.cfg := rfl
@[simp] theorem State.takeTurn_run : s.takeTurn.run = s.run := rfl
@[simp] theorem State.takeTurn_err : s.takeTurn.err = s.err := rfl
@[simp] theorem State.takeTurn_haltInfo : s.takeTurn.haltInfo = s.haltInfo := rfl
@[simp] theorem State.takeTurn_listener : s.takeTurn.listener = s.listener := rfl
@[simp] theorem State.takeTurn_out : s.takeTurn.out = s.out := rfl
@[simp] theorem State.takeTurn_draws : s.takeTurn.draws = s.draws := rfl
@[simp] theorem State.takeTurn_V (r : Reg) : s.takeTurn.V r = s.V r := rfl
@[simp] theorem State.takeTurn_byteAt (a : Nat) : s.takeTurn.byteAt a = s.byteAt a := rfl

@[simp] theorem State.advance_regs : s.advance.regs = s.regs := rfl
@[simp] theorem State.advance_index : s.advance.index = s.index := rfl
@[simp] theorem State.advance_mem : s.advance.mem = s.mem := rfl
@[simp] theorem State.advance_delayTimer : s.advance.delayTimer = s.delayTimer := rfl
@[simp] theorem State.advance_soundTimer : s.advance.soundTimer = s.soundTimer := rfl
@[simp] theorem State.advance_screen : s.advance.screen = s.screen := rfl
@[simp] theorem State.advance_keyState : s.advance.keyState = s.keyState := rfl
@[simp] theorem State.advance_soundState : s.advance.soundState = s.soundState := rfl
@[simp] theorem State.advance_run : s.advance.run = s.run := rfl
@[simp] theorem State.advance_err : s.advance.err = s.err := rfl
@[simp] theorem State.advance_haltInfo : s.advance.haltInfo = s.haltInfo := rfl
@[simp] theorem State.advance_listener : s.advance.listener = s.listener := rfl
@[simp] theorem State.advance_out : s.advance.out = s.out := rfl
@[simp] theorem State.advance_schedule : s.advance.schedule = s.schedule := rfl
@[simp] theorem State.advance_rounds : s.advance.rounds = s.rounds := rfl
@[simp] theorem State.advance_draws : s.advance.draws = s.draws := rfl

end

/-! ### What a step can do -/

/-- What one step from `s` to `t` was: a tick, the receipt of a key message, a fetch outside memory, or one
instruction, which ran after the prologue (60_exceptions.md rule R235, 30_encoding.md rule R92). -/
inductive StepCase (s t : State) : Prop where
  | tick (turn : s.nextTurn = .tick) (result : t = s.takeTurn.tick)
  | keys (bytes : List Byte) (turn : s.nextTurn = .keyMessage bytes) (result : t = s.takeTurn.receiveKeys bytes)
  | badFetch (turn : s.nextTurn = .engine) (outside : 0xFFE < s.pc.toNat)
      (result : t = s.takeTurn.raise .outOfBoundsFetch s.pc none)
  | instr (i : Instr) (runs : s.running? = some i) (result : exec i s.takeTurn.advance = .next t)

/-- A step is taken by a running machine and is one of the four cases. -/
theorem step_inversion {s t : State} (h : step s = .next t) : s.run = .running ∧ StepCase s t := by
  obtain ⟨hrun, ⟨ht, rfl⟩ | ⟨bytes, ht, rfl⟩ | ⟨ht, he⟩⟩ := step_cases h
  · exact ⟨hrun, .tick ht rfl⟩
  · exact ⟨hrun, .keys bytes ht rfl⟩
  · refine ⟨hrun, ?_⟩
    obtain ⟨hf, rfl⟩ | ⟨w, hf, hx⟩ := engineStep_cases he
    · exact .badFetch ht ((State.fetch_eq_none_iff _).1 hf) rfl
    · exact .instr (decode w) ((State.running_eq_some_iff _ _).2 ⟨hrun, ht, w, hf, rfl⟩) hx

/-! #### The four cases in the other direction -/

section
variable {s : State} (hrun : s.run = .running)
include hrun

theorem step_of_tick (h : s.nextTurn = .tick) : step s = .next s.takeTurn.tick := by
  simp only [step, hrun, h]

theorem step_of_keys {bytes : List Byte} (h : s.nextTurn = .keyMessage bytes) :
    step s = .next (s.takeTurn.receiveKeys bytes) := by
  simp only [step, hrun, h]

theorem step_of_badFetch (h : s.nextTurn = .engine) (hout : 0xFFE < s.pc.toNat) :
    step s = .next (s.takeTurn.raise .outOfBoundsFetch s.pc none) := by
  simp [step, hrun, h, engineStep, (s.fetch_eq_none_iff).2 hout]

end

/-- A fetch outside memory writes `RUN` and the halt record, and nothing else (R222). -/
theorem State.badFetch_frame (s : State) :
    sameOutside [.schedule, .haltInfo, .run] s (s.takeTurn.raise .outOfBoundsFetch s.pc none) :=
  s.takeTurn_frame.trans (s.takeTurn.raise_frame _ _ _)

/-- The pieces of state that the Timer Subsystem and the Key Listener may write, and the turns to come (R241, R245). -/
def otherAgentsWrite : List Part :=
  [.schedule, .delayTimer, .soundTimer, .soundState, .out, .keyState, .listener]

/-- The four cases with the two other agents taken together: what a proof about anything they do not write needs. -/
inductive StepOutline (s t : State) : Prop where
  | other (turn : s.nextTurn ≠ .engine) (frame : sameOutside otherAgentsWrite s t)
  | badFetch (turn : s.nextTurn = .engine) (outside : 0xFFE < s.pc.toNat)
      (result : t = s.takeTurn.raise .outOfBoundsFetch s.pc none)
  | instr (i : Instr) (runs : s.running? = some i) (result : exec i s.takeTurn.advance = .next t)

theorem step_outline {s t : State} (h : step s = .next t) : s.run = .running ∧ StepOutline s t := by
  obtain ⟨hrun, hc⟩ := step_inversion h
  refine ⟨hrun, ?_⟩
  cases hc with
  | tick hturn ht =>
    subst ht
    exact .other (by simp [hturn]) ((s.takeTurn_frame.trans s.takeTurn.tick_frame).mono (by decide))
  | keys bytes hturn ht =>
    subst ht
    exact .other (by simp [hturn]) ((s.takeTurn_frame.trans (s.takeTurn.receiveKeys_frame bytes)).mono (by decide))
  | badFetch hturn hout ht => exact .badFetch hturn hout ht
  | instr i hi hx => exact .instr i hi hx

section
variable {s : State}

/-- On another agent's turn no instruction runs. -/
theorem State.running_ne_some_of_turn (h : s.nextTurn ≠ .engine) (i : Instr) : s.running? ≠ some i :=
  fun hi => h ((s.running_eq_some_iff i).1 hi).2.1

/-- Where the fetch leaves memory no instruction runs (R62). -/
theorem State.running_ne_some_of_badFetch (h : 0xFFE < s.pc.toNat) (i : Instr) : s.running? ≠ some i := by
  intro hi
  obtain ⟨-, -, w, hf, -⟩ := (s.running_eq_some_iff i).1 hi
  have := ((s.fetch_eq_some_iff w).1 hf).1
  omega

/-- An instruction that runs was fetched inside memory, on the engine's turn (R62). -/
theorem State.pc_le_of_running {i : Instr} (h : s.running? = some i) :
    s.run = .running ∧ s.nextTurn = .engine ∧ s.pc.toNat ≤ 0xFFE := by
  obtain ⟨hrun, ht, w, hf, -⟩ := (s.running_eq_some_iff i).1 h
  exact ⟨hrun, ht, ((s.fetch_eq_some_iff w).1 hf).1⟩

end

/-! ### The instructions that branch: one equation per branch, and what each can do -/

section
variable {s t : State} {nnn : Imm12} {x : Reg}

/-- RET with entries on the stack takes the top one off and goes there (R121). -/
theorem exec_ret_of_pos (ign : Nibble) (h : 0 < s.sp.val) :
    exec (.ret ign) s = .next ((s.setStack s.stack ⟨s.sp.val - 1, by have := s.sp.isLt; omega⟩).setPc
      (s.stack[s.sp.val - 1]'(by have := s.sp.isLt; omega))) := by
  obtain ⟨hempty, -⟩ | ⟨_, hp⟩ := s.pop_cases
  · omega
  · simp only [exec, execRet, hp]

/-- RET on an empty stack reports the underflow and goes on (R121). -/
theorem exec_ret_of_empty (ign : Nibble) (h : s.sp.val = 0) :
    exec (.ret ign) s = .next (s.report .stackUnderflow) := by
  obtain ⟨_, hp⟩ | ⟨hpos, -⟩ := s.pop_cases
  · simp only [exec, execRet, hp]
  · omega

theorem exec_ret_cases {ign : Nibble} (h : exec (.ret ign) s = .next t) :
    (s.sp.val = 0 ∧ t = s.report .stackUnderflow) ∨
      ∃ (_ : 0 < s.sp.val), t = (s.setStack s.stack ⟨s.sp.val - 1, by have := s.sp.isLt; omega⟩).setPc
        (s.stack[s.sp.val - 1]'(by have := s.sp.isLt; omega)) := by
  by_cases hempty : s.sp.val = 0
  · rw [exec_ret_of_empty ign hempty] at h
    cases h
    exact .inl ⟨hempty, rfl⟩
  · rw [exec_ret_of_pos ign (Nat.pos_of_ne_zero hempty)] at h
    cases h
    exact .inr ⟨Nat.pos_of_ne_zero hempty, rfl⟩

/-- CALL with room on the stack stores the advanced `pc` on top and jumps (R123). -/
theorem exec_call_of_room (nnn : Imm12) (h : s.sp.val < 12) :
    exec (.call nnn) s =
      .next ((s.setStack (s.stack.set s.sp.val s.pc h) ⟨s.sp.val + 1, by omega⟩).setPc (zext16 nnn)) := by
  obtain ⟨hfull, -⟩ | ⟨_, hp⟩ := s.push_cases s.pc
  · omega
  · simp only [exec, execCall, hp]

/-- CALL on a full stack reports the overflow and jumps all the same (R123). -/
theorem exec_call_of_full (nnn : Imm12) (h : s.sp.val = 12) :
    exec (.call nnn) s = .next ((s.report .stackOverflow).setPc (zext16 nnn)) := by
  obtain ⟨_, hp⟩ | ⟨hroom, -⟩ := s.push_cases s.pc
  · simp only [exec, execCall, hp]
  · omega

theorem exec_jp_cases (h : exec (.jp nnn) s = .next t) :
    ((zext16 nnn = s.fetchAddr ∧ s.cfg.endOnInfiniteLoop = true) ∧ t = (s.setPc (zext16 nnn)).haltClean) ∨
      (¬(zext16 nnn = s.fetchAddr ∧ s.cfg.endOnInfiniteLoop = true) ∧ t = s.setPc (zext16 nnn)) := by
  simp only [exec, execJp] at h
  split at h <;> rename_i hself <;> cases h
  · exact .inl ⟨hself, rfl⟩
  · exact .inr ⟨hself, rfl⟩

theorem exec_key_cases (h : exec (.key x) s = .next t) :
    (s.keyState = 0 ∧ t = s.setPc (s.pc - 2)) ∨
      (s.keyState ≠ 0 ∧ t = s.setV x (.ofNat 8 (lowestKey s.keyState))) := by
  simp only [exec, execKey] at h
  split at h <;> rename_i hkeys <;> cases h
  · exact .inl ⟨hkeys, rfl⟩
  · exact .inr ⟨hkeys, rfl⟩

theorem exec_setST_cases (h : exec (.setST x) s = .next t) :
    (decide ((s.V x).toNat > 0) = s.soundState ∧ t = s.setSoundTimer (Config.soundRemap (s.V x))) ∨
      (decide ((s.V x).toNat > 0) ≠ s.soundState ∧
        t = ((s.setSoundTimer (Config.soundRemap (s.V x))).setSoundState (decide ((s.V x).toNat > 0))).pushSound) := by
  simp only [exec, execSetST] at h
  split at h <;> rename_i htoggle <;> cases h
  · exact .inl ⟨htoggle, rfl⟩
  · exact .inr ⟨htoggle, rfl⟩

theorem exec_addI_cases (h : exec (.addI x) s = .next t) :
    (s.cfg.strictCosmac = true ∧ t = s.setIndex (.ofNat 16 (s.indexSum x % memSize))) ∨
      (¬s.cfg.strictCosmac = true ∧
        t = (s.setIndex (.ofNat 16 (s.indexSum x % memSize))).setV VF (indexOverflowFlag (s.indexSum x))) := by
  simp only [exec, execAddI] at h
  split at h <;> rename_i hstrict <;> cases h
  · exact .inl ⟨hstrict, rfl⟩
  · exact .inr ⟨hstrict, rfl⟩

end

/-! ### What each instruction leaves unchanged -/

/-- A draw changes the counter of draws and nothing else. -/
theorem State.nextDraw_frame (s : State) : sameOutside [.draws] s s.nextDraw := s.setDraws_frame _

/-- Each instruction writes only what `Instr.mayWrite` lists for it (R47, R64). -/
theorem exec_frame {i : Instr} {s t : State} (h : exec i s = .next t) : sameOutside i.mayWrite s t := by
  cases i
  case cls => cases h; exact (s.setScreen_frame _).trans (State.pushScreen_frame _)
  case ret =>
    obtain ⟨-, rfl⟩ | ⟨_, rfl⟩ := exec_ret_cases h
    · exact (s.report_frame _).mono (by simp [Instr.mayWrite])
    · exact ((s.setStack_frame _ _).trans (State.setPc_frame _ _)).mono (by simp [Instr.mayWrite])
  case sys => cases h; exact s.raise_frame _ _ _
  case jp =>
    obtain ⟨-, rfl⟩ | ⟨-, rfl⟩ := exec_jp_cases h
    · exact (s.setPc_frame _).trans (State.haltClean_frame _)
    · exact (s.setPc_frame _).mono (by simp [Instr.mayWrite])
  case call => cases h; exact ((s.push_frame _).trans (State.setPc_frame _ _)).mono (by simp [Instr.mayWrite])
  case seB | sneB | seV | sneV | skp | sknp => cases h; exact s.skipIf_frame _
  case jpV => cases h; exact s.setPc_frame _
  case ldB | addB | ldV | orV | andV | xorV | getDT => cases h; exact s.setV_frame _ _
  case addV | sub | shr | subn | shl => cases h; exact s.setVFlag_frame _ _ _
  case nop8 | nopE | nopF => cases h; exact sameOutside.refl _ _
  case ldI | font => cases h; exact s.setIndex_frame _
  case rnd => cases h; exact (s.nextDraw_frame.trans (State.setV_frame _ _ _)).mono (by simp [Instr.mayWrite])
  case drw =>
    cases h
    exact ((s.setScreen_frame _).trans (State.setV_frame _ _ _)).trans (State.pushScreen_frame _)
  case key =>
    obtain ⟨-, rfl⟩ | ⟨-, rfl⟩ := exec_key_cases h
    · exact (s.setPc_frame _).mono (by simp [Instr.mayWrite])
    · exact (s.setV_frame _ _).mono (by simp [Instr.mayWrite])
  case setDT => cases h; exact s.setDelayTimer_frame _
  case setST =>
    obtain ⟨-, rfl⟩ | ⟨-, rfl⟩ := exec_setST_cases h
    · exact (s.setSoundTimer_frame _).mono (by simp [Instr.mayWrite])
    · exact ((s.setSoundTimer_frame _).trans (State.setSoundState_frame _ _)).trans (State.pushSound_frame _)
  case addI =>
    obtain ⟨-, rfl⟩ | ⟨-, rfl⟩ := exec_addI_cases h
    · exact (s.setIndex_frame _).mono (by simp [Instr.mayWrite])
    · exact (s.setIndex_frame _).trans (State.setV_frame _ _ _)
  case bcd =>
    cases h
    exact (((s.writeData_frame _ _).trans (State.writeData_frame _ _ _)).trans (State.writeData_frame _ _ _)).mono
      (by simp [Instr.mayWrite])
  case stm => cases h; exact (s.storeRegs_frame _).trans (State.setIndex_frame _ _)
  case ldm => cases h; exact (s.loadRegs_frame _).trans (State.setIndex_frame _ _)

/-- No instruction writes the configuration (R40). -/
theorem exec_cfg {i : Instr} {s t : State} (h : exec i s = .next t) : t.cfg = s.cfg :=
  exec_frame h .cfg (by cases i <;> simp [Instr.mayWrite])

/-- No step changes the configuration (R40). -/
theorem step_cfg {s t : State} (h : step s = .next t) : t.cfg = s.cfg := by
  obtain ⟨-, hc⟩ := step_outline h
  cases hc with
  | other _ frame => exact frame .cfg (by decide)
  | badFetch _ _ ht => subst ht; exact s.badFetch_frame .cfg (by decide)
  | instr i _ hx => exact exec_cfg (s := s.takeTurn.advance) hx

/-- Settles O52: the frame of each instruction, and the configuration, which no agent's step writes. -/
theorem instructionFrames : Obligations.InstructionFrames :=
  ⟨fun _ _ _ => exec_frame, fun _ _ => step_cfg⟩

end Sys2Proof.Machine

/-! PROOFS of the invariants (10_state.md, 42_index_memory.md rule R170): memory in its canonical form, the bounds of
`pc` and of the return addresses, the width of `I`, and the halt record. -/

namespace Sys2Proof.Machine

/-! ### Memory in its canonical form -/

/-- A store at a data address keeps the canonical form (R66). -/
theorem State.writeData_canonical {s : State} (k : Nat) (v : Byte) (h : memoryCanonical s) :
    memoryCanonical (s.writeData k v) :=
  State.writeByte_memoryWf v (s.dataAddr_lt k) h

theorem State.storeRegs_canonical {s : State} (h : memoryCanonical s) (k : Nat) :
    memoryCanonical (s.storeRegs k) := by
  induction k with
  | zero => exact h
  | succ k ih => rw [s.storeRegs_succ]; exact State.writeData_canonical _ _ ih

theorem memoryCanonical_of_same {s t : State} (h : memoryCanonical s) (hmem : t.mem = s.mem) (hcfg : t.cfg = s.cfg) :
    memoryCanonical t := by
  unfold memoryCanonical
  rw [hmem, hcfg]
  exact h

section
variable (s : State)

@[simp] theorem State.skipIf_mem (b : Bool) : (s.skipIf b).mem = s.mem := by
  cases b <;> rfl

@[simp] theorem State.push_mem (v : Word) : (s.push v).mem = s.mem := by
  rcases s.push_cases v with ⟨-, h⟩ | ⟨_, h⟩ <;> rw [h] <;> rfl

@[simp] theorem State.loadRegs_mem (k : Nat) : (s.loadRegs k).mem = s.mem := by
  induction k with
  | zero => rfl
  | succ k ih => rw [s.loadRegs_succ, State.setV_mem, ih]

@[simp] theorem State.tick_mem : s.tick.mem = s.mem := by
  have hdelay : s.tickDelay.mem = s.mem := by
    unfold State.tickDelay; split <;> rfl
  rw [← hdelay]
  unfold State.tick State.tickSound
  split
  · dsimp only; split <;> rfl
  · rfl

@[simp] theorem State.receiveKeys_mem (bytes : List Byte) : (s.receiveKeys bytes).mem = s.mem := by
  unfold State.receiveKeys
  split
  · rfl
  · split <;> rfl

end

/-- An instruction that does not list memory leaves the list of bytes itself alone, not only what it reads as. -/
theorem exec_mem {i : Instr} {s t : State} (hi : Part.memory ∉ i.mayWrite) (h : exec i s = .next t) :
    t.mem = s.mem := by
  cases i
  case bcd | stm => simp [Instr.mayWrite] at hi
  case ret => obtain ⟨-, rfl⟩ | ⟨_, rfl⟩ := exec_ret_cases h <;> rfl
  case call => cases h; exact s.push_mem _
  case jp => obtain ⟨-, rfl⟩ | ⟨-, rfl⟩ := exec_jp_cases h <;> rfl
  case key => obtain ⟨-, rfl⟩ | ⟨-, rfl⟩ := exec_key_cases h <;> rfl
  case setST => obtain ⟨-, rfl⟩ | ⟨-, rfl⟩ := exec_setST_cases h <;> rfl
  case addI => obtain ⟨-, rfl⟩ | ⟨-, rfl⟩ := exec_addI_cases h <;> rfl
  case seB | sneB | seV | sneV | skp | sknp => cases h; exact s.skipIf_mem _
  case ldm => cases h; exact s.loadRegs_mem _
  all_goals cases h; rfl

/-- Every instruction keeps the canonical form: BCD and STM store at data addresses, the others store nothing. -/
theorem exec_canonical {i : Instr} {s t : State} (hs : memoryCanonical s) (h : exec i s = .next t) :
    memoryCanonical t := by
  by_cases hi : Part.memory ∈ i.mayWrite
  · cases i <;> simp [Instr.mayWrite] at hi
    case bcd =>
      cases h
      exact State.writeData_canonical _ _ (State.writeData_canonical _ _ (State.writeData_canonical _ _ hs))
    case stm => cases h; exact State.storeRegs_canonical hs _
  · exact memoryCanonical_of_same hs (exec_mem hi h) (exec_cfg h)

/-- Settles O11: only an instruction can store, and each keeps the canonical form. -/
theorem memoryStaysCanonical : Obligations.MemoryStaysCanonical := by
  intro s t hs h
  have hcfg := step_cfg h
  obtain ⟨-, hc⟩ := step_inversion h
  cases hc with
  | tick _ ht => exact memoryCanonical_of_same hs (by rw [ht]; simp) hcfg
  | keys _ _ ht => exact memoryCanonical_of_same hs (by rw [ht]; simp) hcfg
  | badFetch _ _ ht => exact memoryCanonical_of_same hs (by rw [ht]; simp [State.raise]) hcfg
  | instr i _ hx => exact exec_canonical (s := s.takeTurn.advance) hs hx

/-! ### The bounds of `pc` and of the return addresses -/

/-- Every valid entry of the call stack is a return address inside memory or just behind it (R25). -/
def State.stackBounded (s : State) : Prop := ∀ k : Fin 12, k.val < s.sp.val → (s.stack[k.val]).toNat ≤ 0x1000

theorem State.stackBounded_of_same {s t : State} (h : s.stackBounded) (hsame : t.stack = s.stack ∧ t.sp = s.sp) :
    t.stackBounded := by
  obtain ⟨hstack, hsp⟩ := hsame
  intro k hk
  rw [hsp] at hk
  rw [hstack]
  exact h k hk

/-- A push of a bounded address keeps the stack bounded, also where it only reports (R33). -/
theorem State.push_stackBounded {s : State} (h : s.stackBounded) {v : Word} (hv : v.toNat ≤ 0x1000) :
    (s.push v).stackBounded := by
  obtain ⟨-, hp⟩ | ⟨hlt, hp⟩ := s.push_cases v <;> rw [hp]
  · exact h
  · intro k hk
    have hk' : k.val < s.sp.val + 1 := hk
    show ((s.stack.set s.sp.val v hlt)[k.val]).toNat ≤ 0x1000
    by_cases htop : s.sp.val = k.val
    · rw [Vector.getElem_set, if_pos htop]; exact hv
    · rw [Vector.getElem_set, if_neg htop]; exact h k (by omega)

/-- The skip adds 2 at most (R129). -/
theorem State.skipIf_pc_le {s : State} (h : s.pc.toNat ≤ 0x1000) (b : Bool) : (s.skipIf b).pc.toNat ≤ 0x10FE := by
  rw [State.skipIf_pc]
  split
  · bv_omega
  · omega

theorem exec_stackBounded {i : Instr} {s t : State} (hpc : s.pc.toNat ≤ 0x1000) (hs : s.stackBounded)
    (h : exec i s = .next t) : t.stackBounded := by
  by_cases hi : Part.stack ∈ i.mayWrite
  · cases i <;> simp [Instr.mayWrite] at hi
    case ret =>
      obtain ⟨-, rfl⟩ | ⟨_, rfl⟩ := exec_ret_cases h
      · exact hs
      · exact fun k hk => hs k (Nat.lt_of_lt_of_le hk (Nat.sub_le _ _))
    case call => cases h; exact State.push_stackBounded hs hpc
  · exact State.stackBounded_of_same hs (exec_frame h .stack hi)

/-- After an instruction fetched inside memory `pc` is a jump target, a return address or at most two instructions
further (R25). -/
theorem exec_pc_le {i : Instr} {s t : State} (hpc : s.pc.toNat ≤ 0x1000) (hpos : 2 ≤ s.pc.toNat)
    (hs : s.stackBounded) (h : exec i s = .next t) : t.pc.toNat ≤ 0x10FE := by
  by_cases hi : Part.pc ∈ i.mayWrite
  · cases i <;> simp [Instr.mayWrite] at hi
    case ret =>
      obtain ⟨-, rfl⟩ | ⟨hsome, rfl⟩ := exec_ret_cases h
      · exact Nat.le_trans hpc (by decide)
      · have htop := hs ⟨s.sp.val - 1, by have := s.sp.isLt; omega⟩ (Nat.sub_lt hsome Nat.one_pos)
        exact Nat.le_trans htop (by decide)
    case jp nnn =>
      have := nnn.isLt
      obtain ⟨-, rfl⟩ | ⟨-, rfl⟩ := exec_jp_cases h <;> simp <;> omega
    case call nnn => cases h; have := nnn.isLt; simp; omega
    case seB | sneB | seV | sneV | skp | sknp => cases h; exact State.skipIf_pc_le hpc _
    case jpV nnn =>
      cases h
      have := nnn.isLt
      have := (s.V (s.jumpReg nnn)).isLt
      rw [State.setPc_pc, zext16_add_byte_toNat]
      omega
    case key =>
      obtain ⟨-, rfl⟩ | ⟨-, rfl⟩ := exec_key_cases h
      · rw [State.setPc_pc]; bv_omega
      · rw [State.setV_pc]; omega
  · have hsame := exec_frame h .pc hi
    simp only [Part.same] at hsame
    rw [hsame]; omega

/-- Settles O12: an instruction is fetched at 0xFFE at most, so it starts with `pc` at most 0x1000; no other agent
writes `pc` or the stack. -/
theorem programCounterStaysBounded : Obligations.ProgramCounterStaysBounded := by
  intro s t hs h
  obtain ⟨hpc, hstack⟩ := hs
  obtain ⟨-, hc⟩ := step_outline h
  cases hc with
  | other _ frame =>
    have hsame : t.pc = s.pc := frame .pc (by decide)
    exact ⟨by rwa [hsame], State.stackBounded_of_same hstack (frame .stack (by decide))⟩
  | badFetch _ _ ht =>
    subst ht
    have hsame : (s.takeTurn.raise .outOfBoundsFetch s.pc none).pc = s.pc := s.badFetch_frame .pc (by decide)
    exact ⟨by rwa [hsame], State.stackBounded_of_same hstack (s.badFetch_frame .stack (by decide))⟩
  | instr i hi hx =>
    obtain ⟨-, -, hle⟩ := State.pc_le_of_running hi
    have hadv : s.takeTurn.advance.pc.toNat = s.pc.toNat + 2 := by
      rw [State.advance_pc, State.takeTurn_pc]; bv_omega
    exact ⟨exec_pc_le (s := s.takeTurn.advance) (by omega) (by omega) hstack hx,
      exec_stackBounded (s := s.takeTurn.advance) (by omega) hstack hx⟩

/-! ### The width of `I` -/

theorem State.indexAfterBlock_of_keeps {s : State} (h : s.cfg.keepsIndexLow) (x : Reg) :
    s.indexAfterBlock x = s.index := by
  simp [State.indexAfterBlock, h.1]

/-- `0xB04 + 5 * 255 = 0xFFF`: the last glyph address of an admitted font is a 12-bit value (R170, R173). -/
theorem State.glyphAddr_le_of_keeps {s : State} (h : s.cfg.keepsIndexLow) (g : Byte) :
    (s.glyphAddr g).toNat ≤ 0xFFF := by
  have hfont := h.2
  have hg := g.isLt
  have hsum : s.cfg.fontBase.toNat + 5 * g.toNat ≤ 0xFFF := by omega
  rw [State.glyphAddr, BitVec.toNat_ofNat, Nat.mod_eq_of_lt (by omega)]
  exact hsum

theorem exec_indexLow {i : Instr} {s t : State} (hcfg : s.cfg.keepsIndexLow) (hs : indexLow s)
    (h : exec i s = .next t) : indexLow t := by
  by_cases hi : Part.index ∈ i.mayWrite
  · cases i <;> simp [Instr.mayWrite] at hi
    case ldI nnn => cases h; have := nnn.isLt; simp [indexLow]; omega
    case addI x =>
      have hsum : s.indexSum x % memSize ≤ 0xFFF := by simp only [memSize]; omega
      obtain ⟨-, rfl⟩ | ⟨-, rfl⟩ := exec_addI_cases h <;> simp [indexLow] <;> omega
    case font x => cases h; exact State.glyphAddr_le_of_keeps hcfg _
    case stm x => cases h; simpa [indexLow, State.indexAfterBlock_of_keeps hcfg] using hs
    case ldm x => cases h; simpa [indexLow, State.indexAfterBlock_of_keeps hcfg] using hs
  · have hsame := exec_frame h .index hi
    simp only [Part.same] at hsame
    rwa [indexLow, hsame]

/-- Settles O13: only five instructions write `I`, and under this configuration each leaves it a 12-bit value. -/
theorem indexStaysTwelveBits : Obligations.IndexStaysTwelveBits := by
  intro s t hcfg hs h
  obtain ⟨-, hc⟩ := step_outline h
  cases hc with
  | other _ frame =>
    have hsame : t.index = s.index := frame .index (by decide)
    rwa [indexLow, hsame]
  | badFetch _ _ ht =>
    subst ht
    have hsame : (s.takeTurn.raise .outOfBoundsFetch s.pc none).index = s.index := s.badFetch_frame .index (by decide)
    rwa [indexLow, hsame]
  | instr i _ hx => exact exec_indexLow (s := s.takeTurn.advance) hcfg hs hx

/-! ### The end of a run and the halt record -/

/-- An instruction of a running machine ends the run well exactly as the self-jump, and badly exactly as SYS
(R122, R120). -/
theorem exec_run {i : Instr} {s t : State} (hrun : s.run = .running) (h : exec i s.advance = .next t) :
    (t.run = .haltedOk ↔ s.selfJump i) ∧ (t.run = .haltedFatal ↔ ∃ nnn, i = .sys nnn) := by
  cases i
  case sys => cases h; simp [State.selfJump]
  case jp nnn =>
    obtain ⟨hself, rfl⟩ | ⟨hself, rfl⟩ := exec_jp_cases h <;> rw [State.advance_fetchAddr] at hself
    · simpa [State.selfJump] using hself
    · simpa [State.selfJump, hrun] using hself
  all_goals
    have hsame := exec_frame h .run (by simp [Instr.mayWrite])
    simp only [Part.same, State.advance_run, hrun] at hsame
    simp [State.selfJump, hsame]

/-- Settles O53: an instruction ends the run as `exec_run` says, a fetch outside memory ends it badly, and no other
agent ends it. -/
theorem runEndsOnlyAsListed : Obligations.RunEndsOnlyAsListed := by
  intro s t h
  obtain ⟨hrun, hc⟩ := step_outline h
  cases hc with
  | other hturn frame =>
    have hnone := State.running_ne_some_of_turn hturn
    have hsame : t.run = s.run := frame .run (by decide)
    simp [hsame, hrun, hturn, hnone]
  | badFetch hturn hout ht =>
    have hnone := State.running_ne_some_of_badFetch hout
    simp [ht, hturn, hout, hnone]
  | instr i hi hx =>
    obtain ⟨-, -, hle⟩ := State.pc_le_of_running hi
    obtain ⟨hok, hfatal⟩ := exec_run (s := s.takeTurn) hrun hx
    rw [hok, hfatal, hi]
    refine ⟨by simp [State.selfJump], ?_⟩
    simp only [Option.some.injEq, Nat.not_lt.2 hle, and_false, false_or]

theorem haltRecorded_of_none {t : State} (hrun : t.run ≠ .haltedFatal) (hinfo : t.haltInfo = none) :
    haltRecorded t := by
  simp [haltRecorded, hrun, hinfo]

theorem haltInfo_eq_none_of_running {s : State} (h : haltRecorded s) (hrun : s.run = .running) :
    s.haltInfo = none := by
  cases hinfo : s.haltInfo with
  | none => rfl
  | some info =>
    have hfatal := h.1.2 (by rw [hinfo]; exact Option.some_ne_none info)
    rw [hrun] at hfatal
    cases hfatal

/-- Settles O14: a running machine has no record, and the only writers are the two fatal entries, which write `RUN`
with it (R222). -/
theorem haltRecordMatchesRun : Obligations.HaltRecordMatchesRun := by
  intro s t hs h
  obtain ⟨hrun, hc⟩ := step_outline h
  have hnone := haltInfo_eq_none_of_running hs hrun
  cases hc with
  | other _ frame =>
    have hsame : t.run = s.run := frame .run (by decide)
    exact haltRecorded_of_none (by simp [hsame, hrun]) (Eq.trans (frame .haltInfo (by decide)) hnone)
  | badFetch _ _ ht => subst ht; simp [haltRecorded]
  | instr i _ hx =>
    by_cases hsys : ∃ nnn, i = .sys nnn
    · obtain ⟨nnn, rfl⟩ := hsys
      cases hx
      simp [haltRecorded]
    · have hfatal : t.run ≠ .haltedFatal := mt (exec_run (s := s.takeTurn) hrun hx).2.1 hsys
      have hsame := exec_frame hx .haltInfo (by cases i <;> simp_all [Instr.mayWrite])
      exact haltRecorded_of_none hfatal (Eq.trans hsame hnone)

end Sys2Proof.Machine

/-! PROOFS of the encoding obligations (30_encoding.md): decoding and encoding undo each other, the decoder is the
opcode table read from the top, and which words are reserved. -/

namespace Sys2Proof

/-! ### The fields of a word -/

section
variable (w : Word)

theorem fieldX_eq_iff (x : Nibble) : fieldX w = x ↔ w.toNat / 256 % 16 = x.val := by
  rw [Fin.ext_iff, fieldX_val]
theorem fieldY_eq_iff (y : Nibble) : fieldY w = y ↔ w.toNat / 16 % 16 = y.val := by
  rw [Fin.ext_iff, fieldY_val]
theorem fieldN_eq_iff (n : Nibble) : fieldN w = n ↔ w.toNat % 16 = n.val := by
  rw [Fin.ext_iff, fieldN_val]
theorem fieldNN_eq_iff (nn : Byte) : fieldNN w = nn ↔ w.toNat % 256 = nn.toNat := by
  rw [← BitVec.toNat_inj, fieldNN_toNat]
theorem fieldNNN_eq_iff (nnn : Imm12) : fieldNNN w = nnn ↔ w.toNat % 4096 = nnn.toNat := by
  rw [← BitVec.toNat_inj, fieldNNN_toNat]

/-- A word is its class nibble and `nnn` (R91). -/
theorem ofNat_class_nnn : BitVec.ofNat 16 ((opClass w).val * 4096 + (fieldNNN w).toNat) = w := by
  apply BitVec.eq_of_toNat_eq
  rw [opClass_val, fieldNNN_toNat, BitVec.toNat_ofNat]
  omega

/-- A word is its class nibble, `x` and `nn` (R91). -/
theorem ofNat_class_x_nn :
    BitVec.ofNat 16 ((opClass w).val * 4096 + (fieldX w).val * 256 + (fieldNN w).toNat) = w := by
  apply BitVec.eq_of_toNat_eq
  rw [opClass_val, fieldX_val, fieldNN_toNat, BitVec.toNat_ofNat]
  omega

/-- A word is its four nibbles (R91). -/
theorem ofNat_class_x_y_n :
    BitVec.ofNat 16 ((opClass w).val * 4096 + (fieldX w).val * 256 + (fieldY w).val * 16 + (fieldN w).val) = w := by
  apply BitVec.eq_of_toNat_eq
  rw [opClass_val, fieldX_val, fieldY_val, fieldN_val, BitVec.toNat_ofNat]
  omega

end

/-! ### The keyed classes: the reserved word is what no key selects (R95, R98) -/

section
variable {w : Word}

theorem decodeClass8_of_not_key (h : isClass8Key (fieldN w) = false) :
    decodeClass8 w = .nop8 (fieldX w) (fieldY w) (fieldN w) := by
  unfold decodeClass8
  split <;> simp_all [isClass8Key]

theorem decodeClass0_of_not_key (h : isClass0Key (fieldNN w) = false) : decodeClass0 w = .sys (fieldNNN w) := by
  simp_all [decodeClass0, isClass0Key]

theorem decodeClassE_of_not_key (h : isClassEKey (fieldNN w) = false) :
    decodeClassE w = .nopE (fieldX w) (fieldNN w) := by
  simp_all [decodeClassE, isClassEKey]

theorem isClass0Key_cases {nn : Byte} (h : isClass0Key nn = true) : nn = 0xE0 ∨ nn = 0xEE := by
  simpa only [isClass0Key, Bool.or_eq_true, beq_iff_eq] using h

theorem isClassEKey_cases {nn : Byte} (h : isClassEKey nn = true) : nn = 0x9E ∨ nn = 0xA1 := by
  simpa only [isClassEKey, Bool.or_eq_true, beq_iff_eq] using h

theorem isClassFKey_cases {nn : Byte} (h : isClassFKey nn = true) :
    nn = 0x07 ∨ nn = 0x0A ∨ nn = 0x15 ∨ nn = 0x18 ∨ nn = 0x1E ∨ nn = 0x29 ∨ nn = 0x33 ∨ nn = 0x55 ∨ nn = 0x65 := by
  simpa only [isClassFKey, Bool.or_eq_true, beq_iff_eq, or_assoc] using h

theorem decodeClassF_of_not_key (h : isClassFKey (fieldNN w) = false) :
    decodeClassF w = .nopF (fieldX w) (fieldNN w) := by
  simp_all [decodeClassF, isClassFKey]

end

/-! ### Decoding what was encoded -/

/-- The last nibble of a class 8 word is its key (R96). -/
theorem fieldN_ofNat_class8 (x y : Nibble) (k : Nat) :
    (fieldN (.ofNat 16 (0x8000 + x.val * 256 + y.val * 16 + k))).val = k % 16 := by
  rw [fieldN_val, BitVec.toNat_ofNat]
  omega

/-- The low byte of a word whose only operand is `x` is its key (R96). -/
theorem fieldNN_ofNat_key (k : Nat) (x : Nibble) : fieldNN (.ofNat 16 (k + x.val * 256)) = .ofNat 8 k := by
  rw [fieldNN_eq_iff, BitVec.toNat_ofNat, BitVec.toNat_ofNat]
  omega

open Laws.EncodeClass in
/-- The class nibble of an encoded instruction is that of its row (R96). -/
theorem opClass_encode (i : Instr) : (opClass (encode i)).val = classOf i := by
  cases i with
  | cls a => exact cls a
  | ret a => exact ret a
  | sys a => exact sys a
  | jp a => exact jp a
  | call a => exact call a
  | seB a b => exact seB a b
  | sneB a b => exact sneB a b
  | seV a b c => exact seV a b c
  | ldB a b => exact ldB a b
  | addB a b => exact addB a b
  | ldV a b => exact ldV a b
  | orV a b => exact orV a b
  | andV a b => exact andV a b
  | xorV a b => exact xorV a b
  | addV a b => exact addV a b
  | sub a b => exact sub a b
  | shr a b => exact shr a b
  | subn a b => exact subn a b
  | shl a b => exact shl a b
  | nop8 a b c => exact nop8 a b c
  | sneV a b c => exact sneV a b c
  | ldI a => exact ldI a
  | jpV a => exact jpV a
  | rnd a b => exact rnd a b
  | drw a b c => exact drw a b c
  | skp a => exact skp a
  | sknp a => exact sknp a
  | nopE a b => exact nopE a b
  | getDT a => exact getDT a
  | key a => exact key a
  | setDT a => exact setDT a
  | setST a => exact setST a
  | addI a => exact addI a
  | font a => exact font a
  | bcd a => exact bcd a
  | stm a => exact stm a
  | ldm a => exact ldm a
  | nopF a b => exact nopF a b

open Laws.EncodeClass in
/-- An instruction comes back from its word: the class nibble selects the row, the key (`n` or `nn`) the instruction,
and each operand stands in its own field (R95, R102). -/
theorem decode_encode {i : Instr} (hwf : i.wellFormed = true) : decode (encode i) = i := by
  cases i
  case jp | call | ldI | jpV =>
    simp only [decode, opClass_encode, classOf]
    simp [fieldNNN_eq_iff, encode]; omega
  case seB | sneB | ldB | addB | rnd =>
    simp only [decode, opClass_encode, classOf]
    simp [fieldX_eq_iff, fieldNN_eq_iff, encode]; omega
  case seV | sneV | drw =>
    simp only [decode, opClass_encode, classOf]
    simp [fieldX_eq_iff, fieldY_eq_iff, fieldN_eq_iff, encode]; omega
  case ldV | orV | andV | xorV | addV | sub | shr | subn | shl =>
    simp only [decode, opClass_encode, classOf]
    simp only [decodeClass8, encode, fieldN_ofNat_class8, Nat.reduceMod]
    simp [fieldX_eq_iff, fieldY_eq_iff]; omega
  case cls | ret =>
    simp only [decode, opClass_encode, classOf]
    simp [decodeClass0, fieldX_eq_iff, encode, fieldNN_ofNat_key]; omega
  case skp | sknp =>
    simp only [decode, opClass_encode, classOf]
    simp [decodeClassE, fieldX_eq_iff, encode, fieldNN_ofNat_key]; omega
  case getDT | key | setDT | setST | addI | font | bcd | stm | ldm =>
    simp only [decode, opClass_encode, classOf]
    simp [decodeClassF, fieldX_eq_iff, encode, fieldNN_ofNat_key]; omega
  case sys nnn =>
    have hkey : fieldNN (encode (.sys nnn)) = nnn.setWidth 8 := by
      simp [fieldNN_eq_iff, encode]
    have hnot : isClass0Key (fieldNN (encode (.sys nnn))) = false := by simpa [hkey, Instr.wellFormed] using hwf
    simp only [decode, opClass_encode, classOf, decodeClass0_of_not_key hnot]
    simp [fieldNNN_eq_iff, encode]; omega
  case nop8 x y n =>
    have hkey : fieldN (encode (.nop8 x y n)) = n := by simp [fieldN_eq_iff, encode]; omega
    have hnot : isClass8Key (fieldN (encode (.nop8 x y n))) = false := by simpa [hkey, Instr.wellFormed] using hwf
    simp only [decode, opClass_encode, classOf, decodeClass8_of_not_key hnot, hkey]
    simp [fieldX_eq_iff, fieldY_eq_iff, encode]; omega
  case nopE x nn =>
    have hkey : fieldNN (encode (.nopE x nn)) = nn := by simp [fieldNN_eq_iff, encode]; omega
    have hnot : isClassEKey (fieldNN (encode (.nopE x nn))) = false := by simpa [hkey, Instr.wellFormed] using hwf
    simp only [decode, opClass_encode, classOf, decodeClassE_of_not_key hnot, hkey]
    simp [fieldX_eq_iff, encode]; omega
  case nopF x nn =>
    have hkey : fieldNN (encode (.nopF x nn)) = nn := by simp [fieldNN_eq_iff, encode]; omega
    have hnot : isClassFKey (fieldNN (encode (.nopF x nn))) = false := by simpa [hkey, Instr.wellFormed] using hwf
    simp only [decode, opClass_encode, classOf, decodeClassF_of_not_key hnot, hkey]
    simp [fieldX_eq_iff, encode]; omega

/-- Settles O2. -/
theorem decodeOfEncode : Obligations.DecodeOfEncode := fun _ => decode_encode

/-! ### Encoding what was decoded -/

section
variable {w : Word}

theorem ofNat_eq_word {n : Nat} (h : n = w.toNat) : BitVec.ofNat 16 n = w := by
  rw [h, BitVec.ofNat_toNat, BitVec.setWidth_eq]

theorem encode_decodeClass0 (h : (opClass w).val = 0) :
    (decodeClass0 w).wellFormed = true ∧ encode (decodeClass0 w) = w := by
  rw [opClass_val] at h
  cases hkey : isClass0Key (fieldNN w) with
  | false =>
    have hlow : (fieldNNN w).setWidth 8 = fieldNN w := by
      apply BitVec.eq_of_toNat_eq; simp [fieldNNN_toNat, fieldNN_toNat]
    rw [decodeClass0_of_not_key hkey]
    exact ⟨by simp [Instr.wellFormed, hlow, hkey], ofNat_eq_word (by rw [fieldNNN_toNat]; omega)⟩
  | true =>
    rcases isClass0Key_cases hkey with hk | hk <;>
    · have hnum := (fieldNN_eq_iff w _).1 hk
      simp [decodeClass0, hk, Instr.wellFormed] at hnum ⊢
      exact ofNat_eq_word (by rw [fieldX_val]; omega)

theorem encode_decodeClass8 (h : (opClass w).val = 8) :
    (decodeClass8 w).wellFormed = true ∧ encode (decodeClass8 w) = w := by
  rw [opClass_val] at h
  cases hkey : isClass8Key (fieldN w) with
  | false =>
    rw [decodeClass8_of_not_key hkey]
    exact ⟨by simp [Instr.wellFormed, hkey],
      ofNat_eq_word (by rw [fieldX_val, fieldY_val, fieldN_val]; omega)⟩
  | true =>
    unfold decodeClass8
    split <;> rename_i hn
    case h_10 =>
      simp only [isClass8Key, Bool.or_eq_true, decide_eq_true_eq, beq_iff_eq] at hkey
      simp only [imp_false] at *
      omega
    all_goals
      rw [fieldN_val] at hn
      exact ⟨rfl, ofNat_eq_word (by rw [fieldX_val, fieldY_val]; omega)⟩

theorem encode_decodeClassE (h : (opClass w).val = 14) :
    (decodeClassE w).wellFormed = true ∧ encode (decodeClassE w) = w := by
  rw [opClass_val] at h
  cases hkey : isClassEKey (fieldNN w) with
  | false =>
    rw [decodeClassE_of_not_key hkey]
    exact ⟨by simp [Instr.wellFormed, hkey], ofNat_eq_word (by rw [fieldX_val, fieldNN_toNat]; omega)⟩
  | true =>
    rcases isClassEKey_cases hkey with hk | hk <;>
    · have hnum := (fieldNN_eq_iff w _).1 hk
      simp [decodeClassE, hk, Instr.wellFormed] at hnum ⊢
      exact ofNat_eq_word (by rw [fieldX_val]; omega)

theorem encode_decodeClassF (h : (opClass w).val = 15) :
    (decodeClassF w).wellFormed = true ∧ encode (decodeClassF w) = w := by
  rw [opClass_val] at h
  cases hkey : isClassFKey (fieldNN w) with
  | false =>
    rw [decodeClassF_of_not_key hkey]
    exact ⟨by simp [Instr.wellFormed, hkey], ofNat_eq_word (by rw [fieldX_val, fieldNN_toNat]; omega)⟩
  | true =>
    rcases isClassFKey_cases hkey with hk | hk | hk | hk | hk | hk | hk | hk | hk <;>
    · have hnum := (fieldNN_eq_iff w _).1 hk
      simp [decodeClassF, hk, Instr.wellFormed] at hnum ⊢
      exact ofNat_eq_word (by rw [fieldX_val]; omega)

end

/-- Every word is the word of the well-formed instruction it decodes to: the class selects the row, and no field of
the word is dropped (R96, R99). -/
theorem encode_decode (w : Word) : (decode w).wellFormed = true ∧ encode (decode w) = w := by
  have hnnn := ofNat_class_nnn w
  have hxnn := ofNat_class_x_nn w
  have hxyn := ofNat_class_x_y_n w
  unfold decode
  split <;> rename_i hc
  case h_1 => exact encode_decodeClass0 hc
  case h_9 => exact encode_decodeClass8 hc
  case h_15 => exact encode_decodeClassE hc
  case h_16 => exact encode_decodeClassF (by have := (opClass w).isLt; simp only [imp_false] at *; omega)
  case h_2 | h_3 | h_11 | h_12 => rw [hc] at hnnn; exact ⟨rfl, hnnn⟩
  case h_4 | h_5 | h_7 | h_8 | h_13 => rw [hc] at hxnn; exact ⟨rfl, hxnn⟩
  case h_6 | h_10 | h_14 => rw [hc] at hxyn; exact ⟨rfl, hxyn⟩

/-- Settles O3. -/
theorem encodeOfDecode : Obligations.EncodeOfDecode := encode_decode

/-! ### The opcode table -/

section
variable (w p : Word)

theorem and_eq_and_iff (mask : Word) :
    w &&& mask = p &&& mask ↔ ∀ i < 16, mask.getLsbD i = true → w.getLsbD i = p.getLsbD i := by
  constructor
  · intro h i _ hm
    simpa [hm] using congrArg (·.getLsbD i) h
  · intro h
    refine BitVec.eq_of_getLsbD_eq fun i hi => ?_
    cases hm : mask.getLsbD i
    · simp [hm]
    · simp [hm, h i hi hm]

/-- Two words agree under two masks together exactly when they agree under each. -/
theorem and_or_eq_iff (mask mask' : Word) :
    w &&& (mask ||| mask') = p &&& (mask ||| mask') ↔ w &&& mask = p &&& mask ∧ w &&& mask' = p &&& mask' := by
  simp only [and_eq_and_iff, BitVec.getLsbD_or, Bool.or_eq_true, ← forall_and, or_imp]

/-- Two words agree under the mask of a field exactly when the field is the same in both. -/
theorem and_eq_and_iff_field {mask : Word} {a n : Nat} (hle : a + n ≤ 16)
    (hmask : ∀ i < 16, mask.getLsbD i = decide (a ≤ i ∧ i < a + n)) :
    w &&& mask = p &&& mask ↔ w.extractLsb' a n = p.extractLsb' a n := by
  rw [and_eq_and_iff]
  constructor
  · intro h
    refine BitVec.eq_of_getLsbD_eq fun i hi => ?_
    simpa [hi] using h (a + i) (by omega) (by rw [hmask _ (by omega)]; simp [hi])
  · intro h i hi hm
    rw [hmask i hi, decide_eq_true_eq] at hm
    have hbit := congrArg (·.getLsbD (i - a)) h
    simpa [show i - a < n by omega, show a + (i - a) = i by omega] using hbit

theorem and_classMask_eq_iff : w &&& 0xF000 = p &&& 0xF000 ↔ (opClass w).val = p.toNat / 4096 := by
  rw [and_eq_and_iff_field w p (a := 12) (n := 4) (by decide) (by decide), ← opClass_val, ← Fin.ext_iff]
  exact BitVec.toFin_inj.symm

theorem and_nMask_eq_iff : w &&& 0x000F = p &&& 0x000F ↔ (fieldN w).val = p.toNat % 16 := by
  rw [and_eq_and_iff_field w p (a := 0) (n := 4) (by decide) (by decide), ← fieldN_val, ← Fin.ext_iff]
  exact BitVec.toFin_inj.symm

theorem and_nnMask_eq_iff : w &&& 0x00FF = p &&& 0x00FF ↔ fieldNN w = p.setWidth 8 := by
  rw [and_eq_and_iff_field w p (a := 0) (n := 8) (by decide) (by decide), BitVec.setWidth_eq_extractLsb' (by decide)]
  rfl

variable {p}

/-- A row keyed by the class alone (R105). -/
theorem matches_class (hp : p &&& 0xF000 = p) : (w &&& 0xF000 == p) = ((opClass w).val == p.toNat / 4096) := by
  rw [Bool.eq_iff_iff, beq_iff_eq, beq_iff_eq, ← and_classMask_eq_iff, hp]

/-- A row keyed by the class and `n` (R105). -/
theorem matches_class_n (hp : p &&& 0xF00F = p) :
    (w &&& 0xF00F == p) = ((opClass w).val == p.toNat / 4096 && (fieldN w).val == p.toNat % 16) := by
  have hor : w &&& 0xF00F = p &&& 0xF00F ↔ _ := and_or_eq_iff w p 0xF000 0x000F
  rw [and_classMask_eq_iff, and_nMask_eq_iff, hp] at hor
  rw [Bool.eq_iff_iff, Bool.and_eq_true, beq_iff_eq, beq_iff_eq, beq_iff_eq, ← hor]

/-- A row keyed by the class and `nn` (R105). -/
theorem matches_class_nn (hp : p &&& 0xF0FF = p) :
    (w &&& 0xF0FF == p) = ((opClass w).val == p.toNat / 4096 && fieldNN w == p.setWidth 8) := by
  have hor : w &&& 0xF0FF = p &&& 0xF0FF ↔ _ := and_or_eq_iff w p 0xF000 0x00FF
  rw [and_classMask_eq_iff, and_nnMask_eq_iff, hp] at hor
  rw [Bool.eq_iff_iff, Bool.and_eq_true, beq_iff_eq, beq_iff_eq, beq_iff_eq, ← hor]

end

/-- Settles O4: a row of the table tests the class, or the class and the key, of the word, as the dispatch does; within
a class the keyed rows stand before the reserved one. -/
theorem decodeFollowsOpcodeTable : Obligations.DecodeFollowsOpcodeTable := by
  intro w
  have hc := (opClass w).isLt
  generalize hk : (opClass w).val = c at hc
  simp only [opcodeTable, opcodeTableA, opcodeTableB, opcodeTableC, List.cons_append, List.nil_append, List.find?_cons]
  simp (disch := decide) only [matches_class, matches_class_n, matches_class_nn, hk]
  have hclass : c = 0 ∨ c = 8 ∨ c = 14 ∨ c = 15 ∨ c = 1 ∨ c = 2 ∨ c = 3 ∨ c = 4 ∨ c = 5 ∨ c = 6 ∨ c = 7 ∨ c = 9 ∨
      c = 10 ∨ c = 11 ∨ c = 12 ∨ c = 13 := by omega
  rcases hclass with rfl | rfl | rfl | rfl | rfl | rfl | rfl | rfl | rfl | rfl | rfl | rfl | rfl | rfl | rfl | rfl <;>
    simp only [Nat.reduceBEq, Bool.false_and, Bool.true_and, BitVec.reduceToNat, Nat.reduceDiv, Nat.reduceMod]
  · simp only [decode, hk]
    cases hkey : isClass0Key (fieldNN w) with
    | true => rcases isClass0Key_cases hkey with h | h <;> simp [decodeClass0, h, Instr.mnemonic]
    | false =>
      rw [decodeClass0_of_not_key hkey]
      simp only [isClass0Key, Bool.or_eq_false_iff, BitVec.ofNat_eq_ofNat] at hkey
      simp [hkey, Instr.mnemonic]
  · simp only [decode, hk, decodeClass8]
    have hlt := (fieldN w).isLt
    generalize (fieldN w).val = n at hlt
    have hn : n = 0 ∨ n = 1 ∨ n = 2 ∨ n = 3 ∨ n = 4 ∨ n = 5 ∨ n = 6 ∨ n = 7 ∨ n = 8 ∨ n = 9 ∨ n = 10 ∨ n = 11 ∨
        n = 12 ∨ n = 13 ∨ n = 14 ∨ n = 15 := by omega
    rcases hn with rfl | rfl | rfl | rfl | rfl | rfl | rfl | rfl | rfl | rfl | rfl | rfl | rfl | rfl | rfl | rfl <;>
      simp [Instr.mnemonic]
  · simp only [decode, hk]
    cases hkey : isClassEKey (fieldNN w) with
    | true => rcases isClassEKey_cases hkey with h | h <;> simp [decodeClassE, h, Instr.mnemonic]
    | false =>
      rw [decodeClassE_of_not_key hkey]
      simp only [isClassEKey, Bool.or_eq_false_iff, BitVec.ofNat_eq_ofNat] at hkey
      simp [hkey, Instr.mnemonic]
  · simp only [decode, hk]
    cases hkey : isClassFKey (fieldNN w) with
    | true =>
      rcases isClassFKey_cases hkey with h | h | h | h | h | h | h | h | h <;> simp [decodeClassF, h, Instr.mnemonic]
    | false =>
      rw [decodeClassF_of_not_key hkey]
      simp only [isClassFKey, Bool.or_eq_false_iff, BitVec.ofNat_eq_ofNat] at hkey
      simp [hkey, Instr.mnemonic]
  all_goals simp [decode, hk, Instr.mnemonic]

/-! ### Ignored nibbles and reserved words -/

section
variable (w : Word)

/-- Clearing the last nibble changes no other field (R91). -/
theorem fields_and_0xFFF0 :
    opClass (w &&& 0xFFF0) = opClass w ∧ fieldX (w &&& 0xFFF0) = fieldX w ∧ fieldY (w &&& 0xFFF0) = fieldY w := by
  have hfield : ∀ a ∈ [4, 8, 12], (w &&& 0xFFF0).extractLsb' a 4 = w.extractLsb' a 4 := by
    intro a ha
    have hones : ∀ a ∈ [4, 8, 12], (0xFFF0 : Word).extractLsb' a 4 = BitVec.allOnes 4 := by decide
    rw [BitVec.extractLsb'_and, hones a ha, BitVec.and_allOnes]
  simp only [opClass, fieldX, fieldY, hfield 12 (by simp), hfield 8 (by simp), hfield 4 (by simp), and_self]

theorem decode_seV_of_class (h : opClass w = 5) : decode w = .seV (fieldX w) (fieldY w) (fieldN w) := by
  unfold decode
  rw [h]
  rfl

theorem decode_sneV_of_class (h : opClass w = 9) : decode w = .sneV (fieldX w) (fieldY w) (fieldN w) := by
  unfold decode
  rw [h]
  rfl

theorem decode_of_class0 (h : opClass w = 0) : decode w = decodeClass0 w := by
  unfold decode
  rw [h]
  rfl

end

open Machine in
/-- Settles O5: the meanings of CLS, RET, SE.V and SNE.V take no ignored nibble, and the two spellings differ in
nothing else. -/
theorem ignoredNibblesPlayNoPart : Obligations.IgnoredNibblesPlayNoPart := by
  intro w s
  obtain ⟨hclass, hx, hy⟩ := fields_and_0xFFF0 w
  refine ⟨fun hc hk => ?_, fun hc hk => ?_, fun hc => ?_, fun hc => ?_⟩
  · rw [decode_of_class0 w hc, decodeClass0, if_pos hk]; rfl
  · rw [decode_of_class0 w hc, decodeClass0, hk]; rfl
  · rw [decode_seV_of_class w hc, decode_seV_of_class _ (hclass.trans hc), hx, hy]; rfl
  · rw [decode_sneV_of_class w hc, decode_sneV_of_class _ (hclass.trans hc), hx, hy]; rfl

section
variable {w : Word}

/-- The reserved words of class 8 are those that no key selects (R98); so are those of classes E and F. -/
theorem decodeClass8_isReservedNop : (decodeClass8 w).isReservedNop = true ↔ isClass8Key (fieldN w) = false := by
  cases hkey : isClass8Key (fieldN w) with
  | false => simp [decodeClass8_of_not_key hkey, Instr.isReservedNop]
  | true =>
    unfold decodeClass8
    split <;> simp_all [isClass8Key, Instr.isReservedNop]
    omega

theorem decodeClassE_isReservedNop : (decodeClassE w).isReservedNop = true ↔ isClassEKey (fieldNN w) = false := by
  cases hkey : isClassEKey (fieldNN w) with
  | false => simp [decodeClassE_of_not_key hkey, Instr.isReservedNop]
  | true =>
    rcases isClassEKey_cases hkey with hk | hk <;> simp [decodeClassE, hk, Instr.isReservedNop]

theorem decodeClassF_isReservedNop : (decodeClassF w).isReservedNop = true ↔ isClassFKey (fieldNN w) = false := by
  cases hkey : isClassFKey (fieldNN w) with
  | false => simp [decodeClassF_of_not_key hkey, Instr.isReservedNop]
  | true =>
    rcases isClassFKey_cases hkey with hk | hk | hk | hk | hk | hk | hk | hk | hk <;>
      simp [decodeClassF, hk, Instr.isReservedNop]

/-- No word of class 0 is reserved: its catch-all is SYS (R96). -/
theorem decodeClass0_isReservedNop : (decodeClass0 w).isReservedNop = false := by
  cases hkey : isClass0Key (fieldNN w) with
  | false => rw [decodeClass0_of_not_key hkey]; rfl
  | true => rcases isClass0Key_cases hkey with hk | hk <;> simp [decodeClass0, hk, Instr.isReservedNop]

/-- Only classes 8, E and F hold reserved words (R98). -/
theorem decode_isReservedNop :
    (decode w).isReservedNop = true ↔
      (opClass w = 8 ∧ isClass8Key (fieldN w) = false) ∨ (opClass w = 14 ∧ isClassEKey (fieldNN w) = false) ∨
        (opClass w = 15 ∧ isClassFKey (fieldNN w) = false) := by
  have h8 : opClass w = 8 ↔ (opClass w).val = 8 := Fin.ext_iff
  have h14 : opClass w = 14 ↔ (opClass w).val = 14 := Fin.ext_iff
  have h15 : opClass w = 15 ↔ (opClass w).val = 15 := Fin.ext_iff
  rw [h8, h14, h15]
  unfold decode
  split <;> rename_i hc
  case h_1 => simp [decodeClass0_isReservedNop, hc]
  case h_9 => simp [decodeClass8_isReservedNop, hc]
  case h_15 => simp [decodeClassE_isReservedNop, hc]
  case h_16 =>
    have hlast : (opClass w).val = 15 := by
      have := (opClass w).isLt
      simp only [imp_false] at *
      omega
    simp [decodeClassF_isReservedNop, hlast]
  all_goals simp [Instr.isReservedNop, hc]

end

open Machine in
/-- Settles O23: the words are the unselected ones of three classes, and the meaning of each leaves the prologue's
state. -/
theorem reservedWordsAreNoOps : Obligations.ReservedWordsAreNoOps := by
  constructor
  · intro w
    have hn : ∀ n : Nibble, isClass8Key n = false ↔ n ∈ [8, 9, 10, 11, 12, 13, 15] := by decide
    rw [decode_isReservedNop, hn]
    simp [isClassEKey, isClassFKey, and_assoc]
  · intro s i hi
    have hnop : ∀ t, exec i t = .next t := by
      cases i
      case nop8 | nopE | nopF => exact fun _ => rfl
      all_goals simp [Instr.isReservedNop] at hi
    exact ⟨hnop s, fun hrun => by rw [step_of_running hrun, hnop]; rfl⟩

open Machine in
/-- Settles O1: thirteen words of the spec's table, decoded. -/
theorem specWordsDecode : Obligations.SpecWordsDecode := by
  unfold Obligations.SpecWordsDecode
  decide

end Sys2Proof

/-! PROOFS of the obligations about the step, the two other agents and their turns (60_exceptions.md,
20_memory.md). -/

namespace Sys2Proof.Machine

/-! ### The engine's step -/

/-- Settles O6: the fetch reads the two bytes at `pc`, so this is the step that runs their instruction. -/
theorem stepRunsTheDecodedInstruction : Obligations.StepRunsTheDecodedInstruction := by
  intro s i hrun hturn hpc hdec
  have hfetch := (s.fetch_eq_some_iff _).2 ⟨hpc, rfl⟩
  have hruns : s.running? = some i := (s.running_eq_some_iff i).2 ⟨hrun, hturn, _, hfetch, hdec⟩
  exact ⟨step_of_running hruns, s.takeTurn_turnTaken, s.takeTurn_frame⟩

/-- Settles O7: the fatal entry after the turn is taken, and nothing else. -/
theorem fetchOutsideMemoryIsFatal : Obligations.FetchOutsideMemoryIsFatal := by
  intro s hrun hturn hout
  exact ⟨_, step_of_badFetch hrun hturn hout, State.raise_run _ _ _ _, State.raise_haltInfo _ _ _ _,
    turnTaken.of_frame (by decide) (s.takeTurn.raise_frame _ _ _), s.badFetch_frame.mono (by decide)⟩

/-- A running machine has a step, whoever's turn it is (R223). -/
theorem step_next_of_running {s : State} (hrun : s.run = .running) : ∃ t, step s = .next t := by
  cases hturn : s.nextTurn with
  | tick => exact ⟨_, step_of_tick hrun hturn⟩
  | keyMessage bytes => exact ⟨_, step_of_keys hrun hturn⟩
  | engine =>
    by_cases hout : 0xFFE < s.pc.toNat
    · exact ⟨_, step_of_badFetch hrun hturn hout⟩
    · have hfetch := (s.fetch_eq_some_iff _).2 ⟨by omega, rfl⟩
      rw [step_of_running ((s.running_eq_some_iff _).2 ⟨hrun, hturn, _, hfetch, rfl⟩)]
      exact exec_next _ _

/-- Settles O8. -/
theorem onlyAHaltedMachineHasNoStep : Obligations.OnlyAHaltedMachineHasNoStep := fun s =>
  ⟨fun h => by simp only [step, h], fun h => by simp only [step, h], step_next_of_running⟩

/-! ### The Timer -/

section
variable (s : State)

theorem State.tickDelay_frame : sameOutside [.delayTimer] s s.tickDelay := by
  unfold State.tickDelay
  split
  · exact s.setDelayTimer_frame _
  · exact sameOutside.refl _ _

theorem byte_sub_one_toNat {b : Byte} (h : 0 < b.toNat) : (b - 1).toNat = b.toNat - 1 := by
  bv_omega

theorem State.tickDelay_delayTimer : s.tickDelay.delayTimer.toNat = s.delayTimer.toNat - 1 := by
  unfold State.tickDelay
  split
  · rename_i h; exact byte_sub_one_toNat h
  · omega

/-- The sound timer's part of a tick on the 1 to 0 transition (R241). -/
theorem State.tickSound_of_one (h : s.soundTimer = 1) :
    s.tickSound = ((s.setSoundTimer 0).setSoundState false).pushSound := by
  simp [State.tickSound, h]

/-- The sound timer's part of any other tick: it counts, and signals nothing (R241). -/
theorem State.tickSound_of_ne_one (h : s.soundTimer ≠ 1) :
    ∃ v : Byte, v.toNat = s.soundTimer.toNat - 1 ∧ s.tickSound = s.setSoundTimer v := by
  by_cases hpos : s.soundTimer.toNat > 0
  · refine ⟨s.soundTimer - 1, byte_sub_one_toNat hpos, ?_⟩
    have hne : s.soundTimer - 1 ≠ 0 := by bv_omega
    rw [State.tickSound, if_pos hpos]
    exact if_neg hne
  · refine ⟨s.soundTimer, by omega, ?_⟩
    rw [State.tickSound, if_neg hpos]
    rfl

/-- The delay timer goes down by one and stops at 0 (R241). -/
theorem State.tick_delayTimer : s.tick.delayTimer.toNat = s.delayTimer.toNat - 1 := by
  rw [← s.tickDelay_delayTimer]
  by_cases h : s.tickDelay.soundTimer = 1
  · rw [State.tick, State.tickSound_of_one _ h]; rfl
  · obtain ⟨v, -, hv⟩ := s.tickDelay.tickSound_of_ne_one h
    rw [State.tick, hv]; rfl

/-- The sound timer goes down by one and stops at 0 (R241). -/
theorem State.tick_soundTimer : s.tick.soundTimer.toNat = s.soundTimer.toNat - 1 := by
  have hsame : s.tickDelay.soundTimer = s.soundTimer := s.tickDelay_frame .soundTimer (by decide)
  rw [← hsame]
  by_cases h : s.tickDelay.soundTimer = 1
  · rw [State.tick, State.tickSound_of_one _ h, h]; rfl
  · obtain ⟨v, hval, hv⟩ := s.tickDelay.tickSound_of_ne_one h
    rw [State.tick, hv, ← hval]; rfl

variable {s}

/-- On the 1 to 0 transition the sound goes off and one message is sent, whatever the sound state was (R241). -/
theorem State.tick_signals (h : s.soundTimer = 1) :
    s.tick.soundState = false ∧ s.tick.out = s.out ++ [⟨false, s.keyState, none, 64, 32⟩] := by
  have hsame := s.tickDelay_frame
  have hone : s.tickDelay.soundTimer = 1 := (hsame .soundTimer (by decide)).trans h
  have hout : s.tickDelay.out = s.out := hsame .out (by decide)
  have hkeys : s.tickDelay.keyState = s.keyState := hsame .keyState (by decide)
  rw [State.tick, State.tickSound_of_one _ hone, ← hout, ← hkeys]
  exact ⟨rfl, rfl⟩

/-- Any other tick leaves the sound state and sends nothing (R241). -/
theorem State.tick_silent (h : s.soundTimer ≠ 1) : s.tick.soundState = s.soundState ∧ s.tick.out = s.out := by
  have hsame := s.tickDelay_frame
  have hne : s.tickDelay.soundTimer ≠ 1 := fun h' => h (Eq.trans (hsame .soundTimer (by decide)).symm h')
  obtain ⟨v, -, hv⟩ := s.tickDelay.tickSound_of_ne_one hne
  rw [State.tick, hv]
  exact ⟨hsame .soundState (by decide), hsame .out (by decide)⟩

/-- A tick leaves the turns to come, so that taking one off is all a tick's step does to them. -/
theorem step_tick_frame : sameOutside [.delayTimer, .soundTimer, .soundState, .out, .schedule] s s.takeTurn.tick :=
  (s.takeTurn_frame.trans s.takeTurn.tick_frame).mono (by decide)

end

/-- Settles O48. -/
theorem timerTick : Obligations.TimerTick := by
  intro s hrun hturn
  refine ⟨_, step_of_tick hrun hturn, s.takeTurn.tick_delayTimer, s.takeTurn.tick_soundTimer, ?signals, ?silent,
    turnTaken.of_frame (by decide) s.takeTurn.tick_frame, step_tick_frame⟩
  case signals => exact State.tick_signals (s := s.takeTurn)
  case silent => exact State.tick_silent (s := s.takeTurn)

/-- Running on from a step that answers a next state. -/
theorem run_succ_of_step {s t : State} (h : step s = .next t) (n : Nat) : core.run (n + 1) s = core.run n t := by
  have hstep : core.step s = .next t := h
  simp only [Host.Core.run, hstep]

/-- Settles O49, by induction on the number of ticks. -/
theorem timerReachesZeroAfterItsValue : Obligations.TimerReachesZeroAfterItsValue := by
  intro n
  induction n with
  | zero => exact fun s rest _ hsched => ⟨s, rfl, rfl, rfl, hsched, sameOutside.refl _ _⟩
  | succ n ih =>
    intro s rest hrun hsched
    obtain ⟨hpending, -⟩ := State.pendingTurns_of_schedule
      (x := .tick) (xs := List.replicate n .tick ++ rest) (by rw [hsched, List.replicate_succ, List.cons_append])
    have hturn : s.nextTurn = .tick := by rw [State.nextTurn, hpending]; rfl
    have hframe := step_tick_frame (s := s)
    have hleft : s.takeTurn.tick.schedule = List.replicate n .tick ++ rest := by
      have hkept : s.takeTurn.tick.schedule = s.takeTurn.schedule :=
        (s.takeTurn.tick_frame .schedule (by decide)).1
      rw [hkept, State.takeTurn_schedule, hpending, List.tail_cons]
    obtain ⟨t, hrun', hdelay, hsound, hrest, hsame⟩ :=
      ih s.takeTurn.tick rest ((hframe .run (by decide)).trans hrun) hleft
    refine ⟨t, (run_succ_of_step (step_of_tick hrun hturn) n).trans hrun', ?_, ?_, hrest, ?_⟩
    · rw [hdelay, State.tick_delayTimer, State.takeTurn_delayTimer]; omega
    · rw [hsound, State.tick_soundTimer, State.takeTurn_soundTimer]; omega
    · exact (hframe.trans hsame).mono (by decide)

/-! ### The Key Listener -/

section
variable {s : State}

/-- A dead listener does nothing (R246). -/
theorem State.receiveKeys_of_dead (h : s.listener = .dead) (bytes : List Byte) : s.receiveKeys bytes = s := by
  simp only [State.receiveKeys, h]

/-- Two bytes replace the mask (R245). -/
theorem State.receiveKeys_pair (h : s.listener = .alive) (b0 b1 : Byte) :
    s.receiveKeys [b0, b1] = s.setKeyState (wordOfBytes b0 b1) := by
  simp only [State.receiveKeys, h]

/-- Any other length kills a live listener (R246). -/
theorem State.receiveKeys_malformed (h : s.listener = .alive) {bytes : List Byte} (hlen : bytes.length ≠ 2) :
    s.receiveKeys bytes = s.setListener .dead := by
  unfold State.receiveKeys
  rw [h]
  match bytes, hlen with
  | [], _ | [_], _ | _ :: _ :: _ :: _, _ => rfl

theorem eq_pair_of_length {bytes : List Byte} (hlen : bytes.length = 2) : ∃ b0 b1, bytes = [b0, b1] := by
  match bytes, hlen with
  | [b0, b1], _ => exact ⟨b0, b1, rfl⟩

/-- After a message of another length the listener is dead, whether or not it was before (R246). -/
theorem State.receiveKeys_listener_of_malformed (s : State) {bytes : List Byte} (hlen : bytes.length ≠ 2) :
    (s.receiveKeys bytes).listener = .dead ∧ sameOutside [.listener] s (s.receiveKeys bytes) := by
  cases h : s.listener with
  | dead => rw [State.receiveKeys_of_dead h]; exact ⟨h, sameOutside.refl _ _⟩
  | alive => rw [State.receiveKeys_malformed h hlen]; exact ⟨rfl, s.setListener_frame _⟩

end

/-- Settles O50: the live listener's receipt of two bytes is one write of the mask. -/
theorem keyMessageReplacesTheMask : Obligations.KeyMessageReplacesTheMask := by
  intro s b0 b1 hrun halive hturn
  have hframe := s.takeTurn.setKeyState_frame (wordOfBytes b0 b1)
  refine ⟨_, (step_of_keys hrun hturn).trans (congrArg _ (State.receiveKeys_pair (s := s.takeTurn) halive b0 b1)),
    wordOfBytes_toNat b0 b1, turnTaken.of_frame (by decide) hframe, ?_⟩
  exact (s.takeTurn_frame.trans hframe).mono (by decide)

/-- Settles O51: the two clauses are the two ways a message is not taken as a mask. -/
theorem malformedMessageKillsTheListener : Obligations.MalformedMessageKillsTheListener := by
  intro s bytes hrun hturn
  refine ⟨fun hlen => ?_, fun hdead => ?_⟩
  · obtain ⟨hdead, hframe⟩ := s.takeTurn.receiveKeys_listener_of_malformed hlen
    refine ⟨_, step_of_keys hrun hturn, hdead, turnTaken.of_frame (by decide) hframe, ?_⟩
    exact (s.takeTurn_frame.trans hframe).mono (by decide)
  · have hinert := State.receiveKeys_of_dead (s := s.takeTurn) hdead bytes
    exact ⟨_, (step_of_keys hrun hturn).trans (congrArg _ hinert), s.takeTurn_turnTaken, s.takeTurn_frame⟩

/-! ### The order of turns -/

/-- Every step takes one turn off the turns to come and draws no further round (R236). -/
theorem step_turnTaken {s t : State} (h : step s = .next t) : turnTaken s t := by
  obtain ⟨-, hc⟩ := step_inversion h
  cases hc with
  | tick _ ht => subst ht; exact turnTaken.of_frame (by decide) s.takeTurn.tick_frame
  | keys bytes _ ht => subst ht; exact turnTaken.of_frame (by decide) (s.takeTurn.receiveKeys_frame bytes)
  | badFetch _ _ ht => subst ht; exact turnTaken.of_frame (by decide) (s.takeTurn.raise_frame _ _ _)
  | instr i _ hx =>
    exact turnTaken.of_frame (ps := i.mayWrite ++ [.pc]) (by cases i <;> simp [Instr.mayWrite])
      ((s.takeTurn.advance_frame.trans (exec_frame hx)).mono (by simp [or_comm]))

/-- The turn taken and the turns left are the turns that were to come (R236). -/
theorem step_pendingTurns {s t : State} (h : step s = .next t) : s.nextTurn :: t.schedule = s.pendingTurns := by
  rw [(step_turnTaken h).1, s.pendingTurns_eq_cons]
  rfl

/-- Settles O59: the turns to come are the schedule, or the next round when it is empty. -/
theorem turnsAreTakenInOrder : Obligations.TurnsAreTakenInOrder := by
  intro s t h
  have hpending := step_pendingTurns h
  have hrounds := (step_turnTaken h).2
  constructor
  · intro x xs hsched
    obtain ⟨hp, hr⟩ := State.pendingTurns_of_schedule hsched
    rw [hp] at hpending
    obtain ⟨hx, hxs⟩ := List.cons.inj hpending
    exact ⟨hx, hxs, hrounds.trans hr⟩
  · intro hsched
    obtain ⟨hp, hr⟩ := State.pendingTurns_of_empty hsched
    exact ⟨hpending.trans hp, hrounds.trans hr⟩

/-- The turns listed and the round after them (R236). -/
def State.turnsAhead (s : State) : List Turn := s.schedule ++ turnRound s.rounds

/-- A step takes off the first of the turns ahead, and at most adds turns behind them. -/
theorem step_turnsAhead {s t : State} (h : step s = .next t) :
    ∃ later, s.nextTurn :: t.turnsAhead = s.turnsAhead ++ later := by
  obtain ⟨hlisted, hempty⟩ := turnsAreTakenInOrder s t h
  unfold State.turnsAhead
  cases hsched : s.schedule with
  | nil =>
    obtain ⟨hround, -⟩ := hempty hsched
    exact ⟨turnRound t.rounds, by rw [List.nil_append, ← hround, List.cons_append]⟩
  | cons x xs =>
    obtain ⟨rfl, rfl, hrounds⟩ := hlisted x xs hsched
    exact ⟨[], by rw [hrounds, List.append_nil, List.cons_append]⟩

/-- An agent with a turn ahead gets it after the turns before it, unless the run ends first: by induction on those
turns. -/
theorem reaches_turn (a : Turn) (before : List Turn) : ∀ (s : State) (after : List Turn), s.run = .running →
    s.turnsAhead = before ++ a :: after →
    ∃ n t, n ≤ before.length ∧ core.run n s = .next t ∧ (t.run = .running → t.nextTurn = a) := by
  induction before with
  | nil =>
    intro s after hrun hahead
    obtain ⟨t, ht⟩ := step_next_of_running hrun
    obtain ⟨later, hlater⟩ := step_turnsAhead ht
    rw [hahead] at hlater
    exact ⟨0, s, Nat.le_refl 0, rfl, fun _ => (List.cons.inj hlater).1⟩
  | cons x before ih =>
    intro s after hrun hahead
    obtain ⟨t, ht⟩ := step_next_of_running hrun
    obtain ⟨later, hlater⟩ := step_turnsAhead ht
    rw [hahead, List.cons_append, List.cons_append] at hlater
    by_cases hgoes : t.run = .running
    · obtain ⟨n, u, hn, hu, hturn⟩ := ih t (after ++ later) hgoes (by simpa using (List.cons.inj hlater).2)
      exact ⟨n + 1, u, by simpa using hn, (run_succ_of_step ht n).trans hu, hturn⟩
    · exact ⟨1, t, by simp, run_succ_of_step ht 0, fun h => absurd h hgoes⟩

/-- Every round holds an engine step and a tick (R236). -/
theorem mem_turnRound (k : Nat) {a : Turn} (h : a = .engine ∨ a = .tick) : a ∈ turnRound k := by
  rcases h with rfl | rfl <;> simp [turnRound]

/-- Settles O60: the round after the listed turns holds a turn of either agent. -/
theorem noAgentWaitsForEver : Obligations.NoAgentWaitsForEver := by
  intro s a hrun ha
  have hmem : a ∈ s.turnsAhead := List.mem_append_right _ (mem_turnRound _ ha)
  obtain ⟨before, after, hsplit⟩ := List.append_of_mem hmem
  obtain ⟨n, t, hn, ht, hturn⟩ := reaches_turn a before s after hrun hsplit
  refine ⟨n, t, ?_, ht, hturn⟩
  have hlen := congrArg List.length hsplit
  simp only [State.turnsAhead, List.length_append, List.length_cons] at hlen
  omega

end Sys2Proof.Machine

/-! PROOFS of the obligations about who sends, who reports and who writes the shared scalars (60_exceptions.md), and of
the labels of an engine step (00_scope.md rule R13). -/

namespace Sys2Proof.Machine

/-! ### Messages (R250, R251, R255) -/

/-- One message was appended to the messages `before`, and it tells the sound, the keys and either no screen or the
screen of the state `t` it leaves. -/
def State.sentOne (t : State) (before : List Message) : Prop :=
  ∃ m, t.out = before ++ [m] ∧ m.sound = t.soundState ∧ m.keys = t.keyState ∧ m.screenWidth = 64 ∧
    m.screenHeight = 32 ∧ (m.screen = none ∨ m.screen = some t.screen.pack)

section
variable (s : State)

/-- A message of the present state, with or without its screen, tells that state (R251). -/
theorem State.emit_sentOne {screen : Option (List Byte)} (h : screen = none ∨ screen = some s.screen.pack) :
    (s.emit (s.message screen)).sentOne s.out :=
  ⟨s.message screen, rfl, rfl, rfl, rfl, rfl, h⟩

theorem State.pushScreen_sentOne : s.pushScreen.sentOne s.out := s.emit_sentOne (.inr rfl)

theorem State.pushSound_sentOne : s.pushSound.sentOne s.out := s.emit_sentOne (.inl rfl)

/-- The final message carries the screen or null, as the free value leaves it (R231). -/
theorem State.haltClean_sentOne : s.haltClean.sentOne s.out := by
  have hfield : s.quiesce.finalMsg.screen = none ∨ s.quiesce.finalMsg.screen = some s.screen.pack := by
    simp only [State.finalMsg, State.message]
    split
    · exact .inr rfl
    · exact .inl rfl
  exact ⟨s.quiesce.finalMsg, rfl, rfl, rfl, rfl, rfl, hfield⟩

/-- The senders among the instructions (R255). -/
def State.sendsBy (i : Instr) : Prop :=
  (∃ ign, i = .cls ign) ∨ (∃ x y n, i = .drw x y n) ∨
    (∃ x, i = .setST x ∧ decide ((s.V x).toNat > 0) ≠ s.soundState) ∨ s.selfJump i

variable {s}

/-- While an instruction runs, the step sends as that instruction does. -/
theorem State.sends_iff_of_running {i : Instr} (h : s.running? = some i) : s.sends ↔ s.sendsBy i := by
  obtain ⟨-, hturn, -⟩ := State.pc_le_of_running h
  simp [State.sends, State.sendsBy, h, hturn]

/-- While none runs, only a tick can send. -/
theorem State.sends_iff_of_idle (h : ∀ i, s.running? ≠ some i) :
    s.sends ↔ s.run = .running ∧ s.nextTurn = .tick ∧ s.soundTimer = 1 := by
  simp [State.sends, h]

/-- An instruction sends one message when it is a sender, else none (R255). -/
theorem exec_out {i : Instr} {t : State} (h : exec i s.advance = .next t) :
    (s.sendsBy i → t.sentOne s.out) ∧ (¬s.sendsBy i → t.out = s.out) := by
  cases i
  case cls ign =>
    cases h
    exact ⟨fun _ => State.pushScreen_sentOne _, fun hn => absurd (.inl ⟨ign, rfl⟩) hn⟩
  case drw x y n =>
    cases h
    exact ⟨fun _ => State.pushScreen_sentOne _, fun hn => absurd (.inr (.inl ⟨x, y, n, rfl⟩)) hn⟩
  case setST x =>
    have hiff : s.sendsBy (.setST x) ↔ decide ((s.V x).toNat > 0) ≠ s.soundState := by
      simp [State.sendsBy, State.selfJump]
    rw [hiff]
    obtain ⟨htoggle, rfl⟩ | ⟨htoggle, rfl⟩ := exec_setST_cases h
    · exact ⟨fun hne => absurd htoggle hne, fun _ => rfl⟩
    · exact ⟨fun _ => State.pushSound_sentOne _, fun hn => absurd htoggle hn⟩
  case jp nnn =>
    have hiff : s.sendsBy (.jp nnn) ↔ zext16 nnn = s.advance.fetchAddr ∧ s.cfg.endOnInfiniteLoop = true := by
      simp [State.sendsBy, State.selfJump]
    rw [hiff]
    obtain ⟨hself, rfl⟩ | ⟨hself, rfl⟩ := exec_jp_cases h
    · exact ⟨fun _ => State.haltClean_sentOne _, fun hn => absurd hself hn⟩
    · exact ⟨fun hs => absurd hs hself, fun _ => rfl⟩
  all_goals
    exact ⟨fun hs => by simp [State.sendsBy, State.selfJump] at hs,
      fun _ => exec_frame h .out (by simp [Instr.mayWrite])⟩

end

/-- Settles O54: an instruction sends as `exec_out` says, a tick on the 1 to 0 transition of the sound timer, and
nothing else does. -/
theorem messagesAreSentOnlyByTheListedSteps : Obligations.MessagesAreSentOnlyByTheListedSteps := by
  intro s t h
  obtain ⟨hrun, hc⟩ := step_inversion h
  cases hc with
  | tick hturn ht =>
    subst ht
    rw [State.sends_iff_of_idle (State.running_ne_some_of_turn (by simp [hturn]))]
    simp only [hrun, hturn, true_and]
    refine ⟨fun hone => ?_, fun hne => (State.tick_silent (s := s.takeTurn) hne).2⟩
    obtain ⟨hsound, hout⟩ := State.tick_signals (s := s.takeTurn) hone
    have hkeys : s.takeTurn.tick.keyState = s.keyState := s.takeTurn.tick_frame .keyState (by decide)
    exact ⟨_, hout, hsound.symm, hkeys.symm, rfl, rfl, .inl rfl⟩
  | keys bytes hturn ht =>
    subst ht
    rw [State.sends_iff_of_idle (State.running_ne_some_of_turn (by simp [hturn]))]
    exact ⟨fun hs => by simp [hturn] at hs, fun _ => s.takeTurn.receiveKeys_frame bytes .out (by decide)⟩
  | badFetch hturn hout ht =>
    subst ht
    rw [State.sends_iff_of_idle (State.running_ne_some_of_badFetch hout)]
    exact ⟨fun hs => by simp [hturn] at hs, fun _ => by simp [State.raise]⟩
  | instr i hi hx =>
    rw [State.sends_iff_of_running hi]
    exact exec_out (s := s.takeTurn) hx

/-! ### Reports (R42, R224) -/

/-- `report` sets its own bit of `ERR` and no other (R224). -/
theorem State.report_err_bits (s : State) :
    ((s.report .stackOverflow).err.getLsbD 0 = true ∧
        (s.report .stackOverflow).err.getLsbD 1 = s.err.getLsbD 1) ∧
      (s.report .stackUnderflow).err.getLsbD 0 = s.err.getLsbD 0 ∧
        (s.report .stackUnderflow).err.getLsbD 1 = true := by
  simp [Condition.errBit]

/-- An instruction sets bit 0 of `ERR` exactly as a CALL on a full stack and bit 1 exactly as a RET on an empty one, and
clears neither (R42). -/
theorem exec_err {i : Instr} {s t : State} (h : exec i s = .next t) :
    (t.err.getLsbD 0 = true ↔ s.err.getLsbD 0 = true ∨ (s.sp.val = 12 ∧ ∃ nnn, i = .call nnn)) ∧
      (t.err.getLsbD 1 = true ↔ s.err.getLsbD 1 = true ∨ (s.sp.val = 0 ∧ ∃ ign, i = .ret ign)) := by
  obtain ⟨⟨hover, hover'⟩, hunder', hunder⟩ := s.report_err_bits
  by_cases hi : Part.err ∈ i.mayWrite
  · cases i <;> simp [Instr.mayWrite] at hi
    case call =>
      cases h
      obtain ⟨hfull, hp⟩ | ⟨hroom, hp⟩ := s.push_cases s.pc <;> rw [hp]
      · simp only [State.setPc_err, hover, hover', hfull]; simp
      · simp [Nat.ne_of_lt hroom]
    case ret =>
      obtain ⟨hempty, rfl⟩ | ⟨hsome, rfl⟩ := exec_ret_cases h
      · simp only [hunder, hunder', hempty]; simp
      · simp [Nat.ne_of_gt hsome]
  · have hsame : t.err = s.err := exec_frame h .err hi
    have hcall : ∀ nnn, i ≠ .call nnn := by rintro nnn rfl; simp [Instr.mayWrite] at hi
    have hret : ∀ ign, i ≠ .ret ign := by rintro ign rfl; simp [Instr.mayWrite] at hi
    simp [hsame, hcall, hret]

/-- Settles O55. -/
theorem reportsAreStickyAndOnlyFromTheStack : Obligations.ReportsAreStickyAndOnlyFromTheStack := by
  intro s t h
  obtain ⟨-, hc⟩ := step_outline h
  cases hc with
  | other hturn frame =>
    have hsame : t.err = s.err := frame .err (by decide)
    simp [hsame, State.running_ne_some_of_turn hturn]
  | badFetch _ hout ht =>
    subst ht
    simp [State.raise, State.running_ne_some_of_badFetch hout]
  | instr i hi hx =>
    have herr := exec_err hx
    simpa [hi] using herr

/-! ### The shared scalars (R47) -/

/-- Which instructions change one of the four shared scalars, and to what. -/
theorem exec_sharedScalars {i : Instr} {s t : State} (h : exec i s.advance = .next t) :
    (t.keyState ≠ s.keyState → t.run = .haltedOk ∧ t.keyState = 0) ∧
      (t.delayTimer ≠ s.delayTimer → ∃ x, i = .setDT x ∧ t.delayTimer = s.V x) ∧
      (t.soundTimer ≠ s.soundTimer → ∃ x, i = .setST x ∧ t.soundTimer = Config.soundRemap (s.V x)) ∧
      (t.soundState ≠ s.soundState →
        (∃ x, i = .setST x ∧ t.soundState = decide ((s.V x).toNat > 0)) ∨
          (t.run = .haltedOk ∧ t.soundState = false)) := by
  have hframe := exec_frame h
  refine ⟨fun hne => ?keys, fun hne => ?delay, fun hne => ?sound, fun hne => ?state⟩
  case keys =>
    have hi : Part.keyState ∈ i.mayWrite := Decidable.byContradiction fun hi => hne (hframe .keyState hi)
    cases i <;> simp [Instr.mayWrite] at hi
    case jp =>
      obtain ⟨-, rfl⟩ | ⟨-, rfl⟩ := exec_jp_cases h
      · exact ⟨rfl, rfl⟩
      · exact absurd rfl hne
  case delay =>
    have hi : Part.delayTimer ∈ i.mayWrite := Decidable.byContradiction fun hi => hne (hframe .delayTimer hi)
    cases i <;> simp [Instr.mayWrite] at hi
    case setDT x => cases h; exact ⟨x, rfl, rfl⟩
  case sound =>
    have hi : Part.soundTimer ∈ i.mayWrite := Decidable.byContradiction fun hi => hne (hframe .soundTimer hi)
    cases i <;> simp [Instr.mayWrite] at hi
    case setST x =>
      refine ⟨x, rfl, ?_⟩
      obtain ⟨-, rfl⟩ | ⟨-, rfl⟩ := exec_setST_cases h <;> rfl
  case state =>
    have hi : Part.soundState ∈ i.mayWrite := Decidable.byContradiction fun hi => hne (hframe .soundState hi)
    cases i <;> simp [Instr.mayWrite] at hi
    case jp =>
      obtain ⟨-, rfl⟩ | ⟨-, rfl⟩ := exec_jp_cases h
      · exact .inr ⟨rfl, rfl⟩
      · exact absurd rfl hne
    case setST x =>
      refine .inl ⟨x, rfl, ?_⟩
      obtain ⟨-, rfl⟩ | ⟨-, rfl⟩ := exec_setST_cases h
      · exact absurd rfl hne
      · rfl

/-- A timer that a tick changed went down by one (R241). -/
theorem byte_succ_of_pred {b c : Byte} (hval : c.toNat = b.toNat - 1) (hne : c ≠ b) : c.toNat + 1 = b.toNat := by
  have : c.toNat ≠ b.toNat := fun h => hne (BitVec.eq_of_toNat_eq h)
  omega

/-- A message that changes the mask is of two bytes, to a live listener (R245, R246). -/
theorem State.receiveKeys_changes {s : State} {bytes : List Byte}
    (hne : (s.receiveKeys bytes).keyState ≠ s.keyState) :
    ∃ b0 b1, bytes = [b0, b1] ∧ s.listener = .alive ∧ (s.receiveKeys bytes).keyState = b0 ++ b1 := by
  cases hl : s.listener with
  | dead => rw [State.receiveKeys_of_dead hl] at hne; exact absurd rfl hne
  | alive =>
    by_cases hlen : bytes.length = 2
    · obtain ⟨b0, b1, rfl⟩ := eq_pair_of_length hlen
      exact ⟨b0, b1, rfl, rfl, by rw [State.receiveKeys_pair hl]; rfl⟩
    · rw [State.receiveKeys_malformed hl hlen] at hne; exact absurd rfl hne

/-- Settles O56. -/
theorem sharedScalarsHaveTheListedWriters : Obligations.SharedScalarsHaveTheListedWriters := by
  intro s t h
  obtain ⟨-, hc⟩ := step_inversion h
  cases hc with
  | tick hturn ht =>
    subst ht
    refine ⟨fun hne => absurd (s.takeTurn.tick_frame .keyState (by decide)) hne,
      fun hne => .inr ⟨hturn, byte_succ_of_pred s.takeTurn.tick_delayTimer hne⟩,
      fun hne => .inr ⟨hturn, byte_succ_of_pred s.takeTurn.tick_soundTimer hne⟩, fun hne => ?_⟩
    by_cases hone : s.soundTimer = 1
    · exact .inr (.inl ⟨hturn, hone, (State.tick_signals (s := s.takeTurn) hone).1⟩)
    · exact absurd (State.tick_silent (s := s.takeTurn) hone).1 hne
  | keys bytes hturn ht =>
    subst ht
    have hframe := s.takeTurn.receiveKeys_frame bytes
    refine ⟨fun hne => ?_, fun hne => absurd (hframe .delayTimer (by decide)) hne,
      fun hne => absurd (hframe .soundTimer (by decide)) hne, fun hne => absurd (hframe .soundState (by decide)) hne⟩
    obtain ⟨b0, b1, rfl, halive, hval⟩ := State.receiveKeys_changes (s := s.takeTurn) hne
    exact .inl ⟨b0, b1, hturn, halive, hval⟩
  | badFetch _ _ ht =>
    subst ht
    have hframe := s.badFetch_frame
    exact ⟨absurd (hframe .keyState (by decide)), absurd (hframe .delayTimer (by decide)),
      absurd (hframe .soundTimer (by decide)), absurd (hframe .soundState (by decide))⟩
  | instr i hi hx =>
    obtain ⟨hkeys, hdelay, hsound, hstate⟩ := exec_sharedScalars (s := s.takeTurn) hx
    simp only [hi, Option.some.injEq]
    exact ⟨fun hne => .inr (hkeys hne), fun hne => .inl (hdelay hne), fun hne => .inl (hsound hne),
      fun hne => (hstate hne).imp_right .inr⟩

/-! ### The labels of an engine step (R13) -/

section
variable {s : State}

theorem engineStep_of_fetch {w : Word} (h : s.fetch = some w) : engineStep s = exec (decode w) s.advance := by
  simp only [engineStep, h]

/-- The instruction a state would run is a KEY that finds no key (R203). -/
def State.retries (s : State) (i : Instr) : Prop := s.keyState = 0 ∧ ∃ x, i = .key x

theorem State.waitsForKey_iff {w : Word} (h : s.fetch = some w) : s.waitsForKey = true ↔ s.retries (decode w) := by
  unfold State.waitsForKey State.retries
  rw [h, Option.map_some]
  cases decode w <;> simp

/-- A self-jump is a JP. -/
theorem State.selfJump_isJp {i : Instr} (h : s.selfJump i) : ∃ nnn, i = .jp nnn := by
  cases i
  case jp nnn => exact ⟨nnn, rfl⟩
  all_goals exact h.elim

/-- A KEY that finds no key puts `pc` back and changes nothing else, so the step changes nothing (R203). -/
theorem engineStep_of_retries {w : Word} (hf : s.fetch = some w) (h : s.retries (decode w)) :
    engineStep s = .next s := by
  obtain ⟨hkeys, x, hx⟩ := h
  have hback : s.pc + 2 - 2 = s.pc := s.advance_fetchAddr
  rw [engineStep_of_fetch hf, hx]
  show execKey x s.advance = .next s
  rw [execKey, State.advance_keyState, if_pos hkeys, State.advance_pc, hback]
  rfl

/-- The label of an engine step, by what is fetched: one of five cases (R13). -/
inductive LabelCase (s : State) : Prop where
  | badFetch (fetch : s.fetch = none) (label : stepOutcome s = some (.fatal .outOfBoundsFetch))
  | haltClean (w : Word) (fetch : s.fetch = some w) (jump : s.selfJump (decode w))
      (label : stepOutcome s = some .haltClean)
  | machineCode (w : Word) (nnn : Imm12) (fetch : s.fetch = some w) (sys : decode w = .sys nnn)
      (label : stepOutcome s = some (.fatal .machineCodeUnsupported))
  | retry (w : Word) (fetch : s.fetch = some w) (key : s.retries (decode w)) (label : stepOutcome s = some .retry)
  | continues (w : Word) (fetch : s.fetch = some w) (noJump : ¬s.selfJump (decode w))
      (noSys : ∀ nnn, decode w ≠ .sys nnn) (noKey : ¬s.retries (decode w)) (label : stepOutcome s = some .continues)

theorem labelCase_of_running (hrun : s.run = .running) : LabelCase s := by
  cases hf : s.fetch with
  | none => exact .badFetch hf (by simp [stepOutcome, engineStep, hf])
  | some w =>
    obtain ⟨t, ht⟩ := exec_next (decode w) s.advance
    obtain ⟨hok, hfatal⟩ := exec_run hrun ht
    have hstep : engineStep s = .next t := (engineStep_of_fetch hf).trans ht
    cases hend : t.run with
    | haltedOk => exact .haltClean w hf (hok.1 hend) (by simp [stepOutcome, hstep, hend])
    | haltedFatal =>
      obtain ⟨nnn, hsys⟩ := hfatal.1 hend
      have hinfo : t.haltInfo = some ⟨.machineCodeUnsupported, s.advance.fetchAddr, some (zext16 nnn)⟩ := by
        rw [hsys] at ht; cases ht; rfl
      exact .machineCode w nnn hf hsys (by simp [stepOutcome, hstep, hend, hinfo])
    | running =>
      by_cases hkey : s.retries (decode w)
      · exact .retry w hf hkey (by simp [stepOutcome, hstep, hend, (State.waitsForKey_iff hf).2 hkey])
      · have hwaits : ¬s.waitsForKey = true := mt (State.waitsForKey_iff hf).1 hkey
        refine .continues w hf (fun h => ?_) (fun nnn h => ?_) hkey (by simp [stepOutcome, hstep, hend, hwaits])
        · rw [hok.2 h] at hend; cases hend
        · rw [hfatal.2 ⟨nnn, h⟩] at hend; cases hend

end

/-- Settles O9: in each of the five cases the other four are excluded by the instruction fetched. -/
theorem stepOutcomeLabels : Obligations.StepOutcomeLabels := by
  intro s hrun
  have hout := s.fetch_eq_none_iff
  cases labelCase_of_running hrun with
  | badFetch hf hl => simp [hl, hf, hout.1 hf]
  | haltClean w hf hjump hl =>
    obtain ⟨nnn, hjp⟩ := State.selfJump_isJp hjump
    rw [hjp] at hjump
    simp [hl, hf, ← hout, hjp, hjump]
  | machineCode w nnn hf hsys hl => simp [hl, hf, ← hout, hsys, State.selfJump]
  | retry w hf hkey hl =>
    have hsame := engineStep_of_retries hf hkey
    obtain ⟨hkeys, x, hx⟩ := hkey
    simp [hl, hf, ← hout, hx, hkeys, hsame, State.selfJump]
  | continues w hf hjump hsys hkey hl =>
    have hnone : s.keyState = 0 → ∀ x, decode w ≠ .key x := fun hkeys x hx => hkey ⟨hkeys, x, hx⟩
    simpa [hl, hf, ← hout, hjump, hsys, imp.swap] using hnone

end Sys2Proof.Machine

/-! PROOFS of the obligations about what an instruction does not consult: the mode flags, `debug` (30_encoding.md rule
R104, 60_exceptions.md rule R260) and the messages sent before (60_exceptions.md rule R250). -/

namespace Sys2Proof.Machine

/-- The same state under other mode flags and another `debug`, with other messages sent before. -/
def State.disguised (s : State) (strict compat debug : Bool) (earlier : List Message) : State :=
  { s with
    cfg := { s.cfg with strictCosmac := strict, romCompatibility := compat, debug := debug }
    out := earlier ++ s.out }

section
variable (s : State) (a b d : Bool) (earlier : List Message)

theorem State.withModes_eq_disguised : s.withModes a b = s.disguised a b s.cfg.debug [] := rfl

theorem State.withDebug_eq_disguised :
    s.withDebug d = s.disguised s.cfg.strictCosmac s.cfg.romCompatibility d [] := rfl

theorem State.setOut_eq_disguised :
    s.setOut (earlier ++ s.out) =
      s.disguised s.cfg.strictCosmac s.cfg.romCompatibility s.cfg.debug earlier := rfl

/-! ### The shared operations see no disguise -/

theorem State.emit_disguised (m : Message) :
    (s.disguised a b d earlier).emit m = (s.emit m).disguised a b d earlier := by
  simp only [State.emit, State.disguised, State.setOut, List.append_assoc]

theorem State.pushScreen_disguised :
    (s.disguised a b d earlier).pushScreen = s.pushScreen.disguised a b d earlier :=
  s.emit_disguised a b d earlier s.screenMsg

theorem State.pushSound_disguised :
    (s.disguised a b d earlier).pushSound = s.pushSound.disguised a b d earlier :=
  s.emit_disguised a b d earlier s.soundMsg

theorem State.skipIf_disguised (cond : Bool) :
    (s.disguised a b d earlier).skipIf cond = (s.skipIf cond).disguised a b d earlier := by
  cases cond <;> rfl

theorem State.push_disguised (v : Word) :
    (s.disguised a b d earlier).push v = (s.push v).disguised a b d earlier := by
  obtain ⟨hfull, hp⟩ | ⟨hroom, hp⟩ := s.push_cases v <;> rw [hp]
  · exact dif_pos hfull
  · exact dif_neg (Nat.ne_of_lt hroom)

theorem State.storeRegs_disguised (k : Nat) :
    (s.disguised a b d earlier).storeRegs k = (s.storeRegs k).disguised a b d earlier := by
  induction k with
  | zero => rfl
  | succ k ih => rw [State.storeRegs_succ, State.storeRegs_succ, ih]; rfl

theorem State.loadRegs_disguised (k : Nat) :
    (s.disguised a b d earlier).loadRegs k = (s.loadRegs k).disguised a b d earlier := by
  induction k with
  | zero => rfl
  | succ k ih => rw [State.loadRegs_succ, State.loadRegs_succ, ih]; rfl

theorem State.haltClean_disguised :
    (s.disguised a b d earlier).haltClean = s.haltClean.disguised a b d earlier := by
  have hemit := s.quiesce.emit_disguised a b d earlier s.quiesce.finalMsg
  exact congrArg (·.setRun .haltedOk) hemit

theorem State.tickDelay_disguised :
    (s.disguised a b d earlier).tickDelay = s.tickDelay.disguised a b d earlier := by
  by_cases h : s.delayTimer.toNat > 0
  · rw [State.tickDelay, State.tickDelay, if_pos h]; exact if_pos h
  · rw [State.tickDelay, State.tickDelay, if_neg h]; exact if_neg h

theorem State.tickSound_disguised :
    (s.disguised a b d earlier).tickSound = s.tickSound.disguised a b d earlier := by
  by_cases h : s.soundTimer = 1
  · rw [State.tickSound_of_one s h, State.tickSound_of_one (s.disguised a b d earlier) h]
    exact State.pushSound_disguised ((s.setSoundTimer 0).setSoundState false) a b d earlier
  · obtain ⟨v, hv, hs⟩ := s.tickSound_of_ne_one h
    obtain ⟨v', hv', hs'⟩ := (s.disguised a b d earlier).tickSound_of_ne_one h
    have heq : v' = v := BitVec.eq_of_toNat_eq (hv'.trans hv.symm)
    rw [hs, hs', heq]
    rfl

theorem State.tick_disguised : (s.disguised a b d earlier).tick = s.tick.disguised a b d earlier := by
  rw [State.tick, State.tick, State.tickDelay_disguised, State.tickSound_disguised]

theorem State.receiveKeys_disguised (bytes : List Byte) :
    (s.disguised a b d earlier).receiveKeys bytes = (s.receiveKeys bytes).disguised a b d earlier := by
  cases hl : s.listener with
  | dead =>
    rw [State.receiveKeys_of_dead hl]
    exact State.receiveKeys_of_dead (s := s.disguised a b d earlier) hl bytes
  | alive =>
    by_cases hlen : bytes.length = 2
    · obtain ⟨b0, b1, rfl⟩ := eq_pair_of_length hlen
      rw [State.receiveKeys_pair hl]
      exact State.receiveKeys_pair (s := s.disguised a b d earlier) hl b0 b1
    · rw [State.receiveKeys_malformed hl hlen]
      exact State.receiveKeys_malformed (s := s.disguised a b d earlier) hl hlen

end

/-! ### The instructions and the step -/

/-- An instruction under a disguise does the same, if the mode flags it consults are the same. -/
theorem exec_disguised {i : Instr} {s t : State} (a b d : Bool) (earlier : List Message)
    (hmodes : i.consultsModes = true → a = s.cfg.strictCosmac ∧ b = s.cfg.romCompatibility)
    (h : exec i s = .next t) : exec i (s.disguised a b d earlier) = .next (t.disguised a b d earlier) := by
  cases i
  case cls =>
    cases h
    exact congrArg Host.Outcome.next ((s.setScreen Screen.clear).pushScreen_disguised a b d earlier)
  case drw x y n =>
    cases h
    exact congrArg Host.Outcome.next (State.pushScreen_disguised
      ((s.setScreen (s.drawn x y n).screen).setV VF (collisionFlag (s.drawn x y n).hit)) a b d earlier)
  case ret ign =>
    obtain ⟨hempty, rfl⟩ | ⟨hsome, rfl⟩ := exec_ret_cases h
    · exact exec_ret_of_empty (s := s.disguised a b d earlier) ign hempty
    · exact exec_ret_of_pos (s := s.disguised a b d earlier) ign hsome
  case jp nnn =>
    obtain ⟨hself, rfl⟩ | ⟨hself, rfl⟩ := exec_jp_cases h
    · exact (if_pos hself).trans (congrArg _ ((s.setPc (zext16 nnn)).haltClean_disguised a b d earlier))
    · exact if_neg hself
  case call nnn =>
    cases h
    exact congrArg (fun u => Host.Outcome.next (u.setPc (zext16 nnn))) (s.push_disguised a b d earlier s.pc)
  case seB | sneB | seV | sneV | skp | sknp => cases h; exact congrArg _ (State.skipIf_disguised s a b d earlier _)
  case key =>
    obtain ⟨hkey, rfl⟩ | ⟨hkey, rfl⟩ := exec_key_cases h
    · exact if_pos hkey
    · exact if_neg hkey
  case setST x =>
    obtain ⟨htoggle, rfl⟩ | ⟨htoggle, rfl⟩ := exec_setST_cases h
    · exact if_pos htoggle
    · exact (if_neg htoggle).trans (congrArg _ (State.pushSound_disguised
        ((s.setSoundTimer (Config.soundRemap (s.V x))).setSoundState (decide ((s.V x).toNat > 0))) a b d earlier))
  case shr | shl | jpV => obtain ⟨rfl, rfl⟩ := hmodes rfl; cases h; rfl
  case addI =>
    obtain ⟨rfl, rfl⟩ := hmodes rfl
    obtain ⟨hstrict, rfl⟩ | ⟨hstrict, rfl⟩ := exec_addI_cases h
    · exact if_pos hstrict
    · exact if_neg hstrict
  case stm x =>
    obtain ⟨rfl, rfl⟩ := hmodes rfl
    cases h
    exact congrArg (fun u => Host.Outcome.next (u.setIndex (s.indexAfterBlock x)))
      (s.storeRegs_disguised _ _ d earlier (x.val + 1))
  case ldm x =>
    obtain ⟨rfl, rfl⟩ := hmodes rfl
    cases h
    exact congrArg (fun u => Host.Outcome.next (u.setIndex (s.indexAfterBlock x)))
      (s.loadRegs_disguised _ _ d earlier (x.val + 1))
  all_goals cases h; rfl

/-- Settles O57: other modes, or another `debug`, are disguises. -/
theorem modeFlagsReachOnlySixInstructions : Obligations.ModeFlagsReachOnlySixInstructions := by
  intro i s t h
  have hcfg : t.cfg = s.cfg := exec_cfg h
  constructor
  · intro hi a b
    rw [State.withModes_eq_disguised, State.withModes_eq_disguised, hcfg]
    exact exec_disguised a b _ [] (by simp [hi]) h
  · intro d
    rw [State.withDebug_eq_disguised, State.withDebug_eq_disguised, hcfg]
    exact exec_disguised _ _ d [] (fun _ => ⟨rfl, rfl⟩) h

/-- Settles O58: earlier messages are a disguise, and no agent sees it. -/
theorem sentMessagesInfluenceNothing : Obligations.SentMessagesInfluenceNothing := by
  intro s t earlier h
  rw [State.setOut_eq_disguised, State.setOut_eq_disguised, step_cfg h]
  generalize hstrict : s.cfg.strictCosmac = a
  generalize hcompat : s.cfg.romCompatibility = b
  generalize s.cfg.debug = d
  obtain ⟨hrun, hc⟩ := step_inversion h
  cases hc with
  | tick hturn ht =>
    subst ht
    refine (step_of_tick (s := s.disguised a b d earlier) hrun hturn).trans (congrArg _ ?_)
    exact s.takeTurn.tick_disguised a b d earlier
  | keys bytes hturn ht =>
    subst ht
    exact (step_of_keys (s := s.disguised a b d earlier) hrun hturn).trans
      (congrArg _ (s.takeTurn.receiveKeys_disguised a b d earlier bytes))
  | badFetch hturn hout ht =>
    subst ht
    exact step_of_badFetch (s := s.disguised a b d earlier) hrun hturn hout
  | instr i hi hx =>
    have hruns : (s.disguised a b d earlier).running? = some i := hi
    rw [step_of_running hruns]
    exact exec_disguised (s := s.takeTurn.advance) a b d earlier (fun _ => ⟨hstrict.symm, hcompat.symm⟩) hx

end Sys2Proof.Machine

/-! PROOFS of the remaining control-flow, register, key and timer obligations (40_flow.md, 41_alu.md,
44_keys_timers.md), instruction by instruction. -/

namespace Sys2Proof.Machine

/-! ### Call and return -/

/-- Settles O27: with room or without, by the two equations of CALL. -/
theorem callPushesOrReports : Obligations.CallPushesOrReports := by
  intro s nnn
  by_cases hfull : s.sp.val = 12
  · have hcall := exec_call_of_full nnn hfull
    exact ⟨_, hcall, zext16_toNat nnn, fun h => absurd hfull (Nat.ne_of_lt h), fun _ => ⟨rfl, rfl, rfl⟩,
      exec_frame hcall⟩
  · have hroom : s.sp.val < 12 := by have := s.sp.isLt; omega
    have hcall := exec_call_of_room nnn hroom
    refine ⟨_, hcall, zext16_toNat nnn, fun _ => ⟨rfl, rfl, fun k => ?_⟩, fun h => absurd h hfull, exec_frame hcall⟩
    simp only [State.setPc_stack, State.setStack_stack, Vector.getElem_set, eq_comm (a := s.sp.val)]

/-- Settles O28: with entries or without, by the two equations of RET. -/
theorem returnPopsOrReports : Obligations.ReturnPopsOrReports := by
  intro s ign
  by_cases hempty : s.sp.val = 0
  · have hret := exec_ret_of_empty ign hempty
    exact ⟨_, hret, rfl, fun k hk => by omega, fun _ => ⟨rfl, rfl, rfl⟩, exec_frame hret⟩
  · have hret := exec_ret_of_pos ign (Nat.pos_of_ne_zero hempty)
    refine ⟨_, hret, rfl, fun k hk => ⟨?_, ?_, rfl⟩, fun h => absurd h hempty, exec_frame hret⟩
    · simp [hk]
    · simp [hk]

/-- Settles O29: the call leaves the advanced `pc` as top entry, and the return takes it off again. -/
theorem returnUndoesCall : Obligations.ReturnUndoesCall := by
  intro s t t' nnn ign hroom hcall hstack hsp
  rw [exec_call_of_room nnn hroom] at hcall
  cases hcall
  have hpos : 0 < t'.sp.val := by rw [hsp]; exact Nat.succ_pos _
  have htop : t'.sp.val - 1 = s.sp.val := by rw [hsp]; rfl
  refine ⟨_, exec_ret_of_pos ign hpos, ?_, Fin.ext htop, rfl, fun k hk => ?_⟩
  · simp [hstack, htop]
  · simp [hstack, Nat.ne_of_gt hk]

/-! ### Skips, the machine-code escape and the clean shutdown -/

/-- Settles O31: as O30, with the other register in place of the byte. -/
theorem skipOnRegister : Obligations.SkipOnRegister := by
  intro s x y ign
  constructor
  · refine ⟨s.skipIf (s.V x == s.V y), rfl, ?_, s.skipIf_frame _⟩
    simp only [State.skipIf_pc, beq_iff_eq]
  · refine ⟨s.skipIf (s.V x != s.V y), rfl, ?_, s.skipIf_frame _⟩
    simp only [State.skipIf_pc, bne_iff_ne, ite_not]

/-- Settles O33. -/
theorem machineCodeIsFatal : Obligations.MachineCodeIsFatal := fun s nnn =>
  ⟨_, zext16 nnn, rfl, s.raise_run _ _ _, zext16_toNat nnn, s.raise_haltInfo _ _ _,
    (s.raise_frame _ _ _).mono (by decide)⟩

/-- Settles O26: the self-jump is `halt_clean` after the write of `pc`. -/
theorem cleanShutdown : Obligations.CleanShutdown := by
  intro s nnn hself hpolicy
  have hjp := exec_jp_of_selfJump (s := s) ⟨hself, hpolicy⟩
  obtain ⟨m, hout, hsound, hkeys, hwidth, hheight, hscreen⟩ := (s.setPc (zext16 nnn)).haltClean_sentOne
  exact ⟨_, m, hjp, rfl, rfl, rfl, hout, hsound, hkeys, hscreen, hwidth, hheight, exec_frame hjp⟩

/-! ### Results with a flag -/

/-- A result and its flag, as a claim about every register (R140). -/
theorem State.setVFlag_regsBecome {s : State} {x : Reg} {v f v' f' : Byte} (hv : v = v') (hf : f = f') :
    regsBecome (fun r => if r = 15 then f' else if r = x then v' else s.V r) s (s.setVFlag x v f) := by
  subst hv hf
  exact ⟨s.setVFlag_V x v f, s.setVFlag_frame x v f⟩

theorem flagByte_decide (p : Prop) [Decidable p] : flagByte (decide p) = if p then 1 else 0 := by
  simp [flagByte]

/-- Settles O20. -/
theorem addRegisterWithCarry : Obligations.AddRegisterWithCarry := fun _ _ _ =>
  ⟨_, rfl, State.setVFlag_regsBecome (byte_add_eq_ofNat_mod _ _) (flagByte_decide _)⟩

/-- Byte subtraction is the difference modulo 256 (R149). -/
theorem byte_sub_eq_ofInt_mod (a b : Byte) : a - b = .ofInt 8 ((a.toNat - b.toNat : Int) % 256) := by
  apply BitVec.eq_of_toNat_eq
  have := a.isLt
  have := b.isLt
  rw [BitVec.toNat_sub, BitVec.toNat_ofInt]
  omega

/-- Settles O21. -/
theorem subtractWithStrictFlag : Obligations.SubtractWithStrictFlag := fun _ _ _ =>
  ⟨⟨_, rfl, State.setVFlag_regsBecome (byte_sub_eq_ofInt_mod _ _) (flagByte_decide _)⟩,
    _, rfl, State.setVFlag_regsBecome (byte_sub_eq_ofInt_mod _ _) (flagByte_decide _)⟩

section
variable (b : Byte)

theorem byte_shr_one_eq : b >>> 1 = .ofNat 8 (b.toNat / 2) := by
  apply BitVec.eq_of_toNat_eq
  have := b.isLt
  rw [BitVec.toNat_ushiftRight, BitVec.toNat_ofNat, Nat.shiftRight_eq_div_pow]
  omega

theorem byte_shl_one_eq : b <<< 1 = .ofNat 8 (b.toNat * 2 % 256) := by
  apply BitVec.eq_of_toNat_eq
  rw [BitVec.toNat_shiftLeft, BitVec.toNat_ofNat, Nat.shiftLeft_eq]
  omega

/-- The flag of a bit of a byte is that bit as a number (R155). -/
theorem flagByte_getLsbD (k : Nat) : flagByte (b.getLsbD k) = .ofNat 8 (b.toNat / 2 ^ k % 2) := by
  rw [BitVec.getLsbD, Nat.testBit_eq_decide_div_mod_eq]
  rcases Nat.mod_two_eq_zero_or_one (b.toNat / 2 ^ k) with h | h <;> simp [flagByte, h]

theorem shiftRightFlag_eq : shiftRightFlag b = .ofNat 8 (b.toNat % 2) := by
  simpa [shiftRightFlag] using flagByte_getLsbD b 0

theorem shiftLeftFlag_eq : shiftLeftFlag b = .ofNat 8 (b.toNat / 128) := by
  have := b.isLt
  have htop : b.toNat / 2 ^ 7 % 2 = b.toNat / 128 := by omega
  rw [shiftLeftFlag, flagByte_getLsbD, htop]

end

/-- The value that is shifted, as a number (R104). -/
theorem State.shiftSource_toNat (s : State) (x y : Reg) :
    (s.shiftSource x y).toNat = if s.cfg.strictCosmac then (s.V y).toNat else (s.V x).toNat := by
  rw [State.shiftSource]
  split <;> rfl

/-- Settles O22: both shift the value of the mode, and the flag is the bit it loses. -/
theorem shiftsWithBitShiftedOut : Obligations.ShiftsWithBitShiftedOut := by
  intro s x y v hv
  rw [← State.shiftSource_toNat] at hv
  subst hv
  exact ⟨⟨_, rfl, State.setVFlag_regsBecome (byte_shr_one_eq _) (shiftRightFlag_eq _)⟩,
    _, rfl, State.setVFlag_regsBecome (byte_shl_one_eq _) (shiftLeftFlag_eq _)⟩

/-- Settles O24: the byte drawn is masked before it is written. -/
theorem randomByteIsMasked : Obligations.RandomByteIsMasked := by
  intro s x nn
  have hexec : exec (.rnd x nn) s = .next (s.nextDraw.setV x (s.drawnByte &&& nn)) := rfl
  refine ⟨_, hexec, fun r => State.setV_V _ x r _, ?_, rfl, exec_frame hexec⟩
  rw [State.setV_V, if_pos rfl, BitVec.and_assoc]
  simp

/-! ### Keys, timers, sound -/

theorem State.keyPressed_eq (s : State) (k : Byte) :
    s.keyPressed k = (decide (k.toNat ≤ 15) && s.keyState.getLsbD k.toNat) := by
  rw [State.keyPressed]
  split <;> rename_i h
  · rw [decide_eq_true h, Bool.true_and]
  · rw [decide_eq_false h, Bool.false_and]

/-- Settles O44: both are the shared skip on the key that `V[x]` names. -/
theorem skipOnKey : Obligations.SkipOnKey := by
  intro s x pressed hpressed
  rw [← State.keyPressed_eq] at hpressed
  subst hpressed
  refine ⟨⟨_, rfl, s.skipIf_pc _, s.skipIf_frame _⟩, _, rfl, ?_, s.skipIf_frame _⟩
  rw [State.skipIf_pc]
  cases s.keyPressed (s.V x) <;> rfl

/-- The least key number down is below 16, is down, and none below it is (R203). -/
theorem lowestKey_spec {mask : Word} (h : mask ≠ 0) :
    lowestKey mask < 16 ∧ mask.getLsbD (lowestKey mask) = true ∧
      ∀ j, j < lowestKey mask → mask.getLsbD j = false := by
  unfold lowestKey
  cases hfind : (List.range 16).find? (fun k => mask.getLsbD k) with
  | none =>
    refine absurd (BitVec.eq_of_getLsbD_eq fun i hi => ?_) h
    simpa using List.find?_range_eq_none.1 hfind i hi
  | some k =>
    obtain ⟨hdown, hmem, hnone⟩ := List.find?_range_eq_some.1 hfind
    exact ⟨List.mem_range.1 hmem, hdown, fun j hj => by simpa using hnone j hj⟩

/-- Settles O45. -/
theorem waitForKey : Obligations.WaitForKey := by
  intro s x
  constructor
  · intro hnone
    exact ⟨_, if_pos hnone, rfl, s.setPc_frame _⟩
  · intro hsome
    obtain ⟨hlt, hdown, hleast⟩ := lowestKey_spec hsome
    exact ⟨_, _, if_neg hsome, hlt, hdown, hleast, s.setV_regsBecome x _⟩

/-- Settles O46. -/
theorem delayTimerAccess : Obligations.DelayTimerAccess := fun s x =>
  ⟨⟨_, rfl, s.setV_regsBecome x _⟩, _, rfl, rfl, s.setDelayTimer_frame _⟩

/-- Settles O47: a message is sent exactly in the branch where the sound state toggles. -/
theorem setSoundTimer : Obligations.SetSoundTimer := by
  intro s x on hon
  obtain ⟨t, ht⟩ := exec_next (.setST x) s
  have hframe := exec_frame ht
  subst hon
  obtain ⟨htoggle, rfl⟩ | ⟨htoggle, rfl⟩ := exec_setST_cases ht
  · exact ⟨_, ht, rfl, htoggle.symm, fun _ => rfl, fun h => absurd htoggle h, hframe⟩
  · exact ⟨_, ht, rfl, rfl, fun h => absurd h htoggle, fun _ => rfl, hframe⟩

end Sys2Proof.Machine

/-! PROOFS of the remaining index, memory and display obligations (42_index_memory.md, 43_display.md, 20_memory.md), and
of reset and launch (70_reset_and_hazards.md). -/

namespace Sys2Proof.Machine

/-! ### The index register -/

/-- Settles O35: `VF` is written after `I`, in the one branch that writes it. -/
theorem addToIndex : Obligations.AddToIndex := by
  intro s x
  have hmod : (s.indexSum x % memSize) % 2 ^ 16 = (s.index.toNat + (s.V x).toNat) % 4096 := by
    simp only [State.indexSum, memSize]; omega
  obtain ⟨t, ht⟩ := exec_next (.addI x) s
  obtain ⟨hstrict, rfl⟩ | ⟨hstrict, rfl⟩ := exec_addI_cases ht
  · refine ⟨_, ht, ?_, fun r => ?_, exec_frame ht⟩
    · rw [State.setIndex_index, BitVec.toNat_ofNat, hmod]
    · simp [hstrict]
  · refine ⟨_, ht, ?_, fun r => ?_, exec_frame ht⟩
    · rw [State.setV_index, State.setIndex_index, BitVec.toNat_ofNat, hmod]
    · simp only [Bool.not_eq_true] at hstrict
      rw [indexOverflowFlag, flagByte_decide]
      simp only [State.setV_V, State.setIndex_V, hstrict, and_true]
      rfl

/-- Settles O36. -/
theorem glyphAddress : Obligations.GlyphAddress := by
  intro s x
  have hval : (s.glyphAddr (s.V x)).toNat = (s.cfg.fontBase.toNat + 5 * (s.V x).toNat) % 65536 :=
    BitVec.toNat_ofNat _ _
  refine ⟨s.setIndex (s.glyphAddr (s.V x)), rfl, hval, fun hfont => ?_, s.setIndex_frame _⟩
  have := (s.V x).isLt
  exact hval.trans (Nat.mod_eq_of_lt (by omega))

/-- `I` after a block transfer, as a number (R175, R176). -/
theorem State.indexAfterBlock_toNat (s : State) (x : Reg) :
    (s.indexAfterBlock x).toNat = if s.cfg.strictCosmac = true ∧ s.cfg.romCompatibility = false
      then (s.index.toNat + x.val + 1) % 65536 else s.index.toNat := by
  simp only [State.indexAfterBlock, Cfg.incrementsIndex, Bool.and_eq_true, Bool.not_eq_true']
  split
  · rw [BitVec.toNat_add, BitVec.toNat_ofNat]; omega
  · rfl

/-! ### Stores and loads -/

/-- Settles O37: the three addresses differ, so each digit stays as it was stored. -/
theorem storeDecimalDigits : Obligations.StoreDecimalDigits := by
  intro s x
  have hexec : exec (.bcd x) s =
      .next (((s.writeData 0 (hundreds (s.V x))).writeData 1 (tens (s.V x))).writeData 2 (ones (s.V x))) := rfl
  refine ⟨_, hexec, fun a => ?_, exec_frame hexec⟩
  have h01 : s.dataAddr 1 ≠ s.dataAddr 0 := by rw [Ne, s.dataAddr_inj] <;> decide
  have h02 : s.dataAddr 2 ≠ s.dataAddr 0 := by rw [Ne, s.dataAddr_inj] <;> decide
  have h12 : s.dataAddr 2 ≠ s.dataAddr 1 := by rw [Ne, s.dataAddr_inj] <;> decide
  show _ = if a = s.dataAddr 0 then _ else if a = s.dataAddr 1 then _ else if a = s.dataAddr 2 then _ else _
  simp only [State.writeData_byteAt, State.writeData_dataAddr]
  by_cases h0 : a = s.dataAddr 0
  · subst h0; simp [h01.symm, h02.symm, hundreds]
  · by_cases h1 : a = s.dataAddr 1
    · subst h1; simp [h01, h12.symm, tens]
    · simp [h0, h1, ones]

theorem reg_ofNat_val (r : Reg) : Fin.ofNat 16 r.val = r := by
  apply Fin.ext; simp

/-- Settles O38. -/
theorem storeRegisters : Obligations.StoreRegisters := by
  intro s x
  have hx := x.isLt
  have hexec : exec (.stm x) s = .next ((s.storeRegs (x.val + 1)).setIndex (s.indexAfterBlock x)) := rfl
  refine ⟨_, hexec, fun i hi => ?_, fun a ha => ?_, s.indexAfterBlock_toNat x, exec_frame hexec⟩
  · rw [State.setIndex_byteAt, s.storeRegs_byteAt (by omega) (by omega), reg_ofNat_val]
  · exact s.storeRegs_byteAt_of_ne _ fun i hi => ha ⟨i, by omega⟩ (by show i ≤ x.val; omega)

/-- Settles O39. -/
theorem loadRegisters : Obligations.LoadRegisters := by
  intro s x
  have hx := x.isLt
  have hexec : exec (.ldm x) s = .next ((s.loadRegs (x.val + 1)).setIndex (s.indexAfterBlock x)) := rfl
  refine ⟨_, hexec, fun r => ?_, s.indexAfterBlock_toNat x, exec_frame hexec⟩
  rw [State.setIndex_V, s.loadRegs_V (by omega)]
  simp only [Nat.lt_succ_iff]
  rfl

/-- Settles O10: `pc + 1` is the data address behind `pc`, as `pc` is at most 0xFFE, so both bytes are stored
registers. -/
theorem storesAreSeenByTheNextFetch : Obligations.StoresAreSeenByTheNextFetch := by
  intro s x k hk hkx hpc haddr
  obtain ⟨t, ht, hstored, -, -, hframe⟩ := storeRegisters s x
  have htpc : t.pc = s.pc := hframe .pc (by decide)
  have hnext : s.dataAddr (k + 1) = s.pc.toNat + 1 := by
    simp only [State.dataAddr, memSize] at haddr ⊢; omega
  have hhigh : t.byteAt s.pc.toNat = s.V ⟨k, by omega⟩ := by
    rw [← haddr]; exact hstored ⟨k, by omega⟩ (by show k ≤ x.val; omega)
  have hlow : t.byteAt (s.pc.toNat + 1) = s.V ⟨k + 1, hk⟩ := by
    rw [← hnext]; exact hstored ⟨k + 1, hk⟩ hkx
  refine ⟨t, ht, (t.fetch_eq_some_iff _).2 ⟨by rwa [htpc], ?_⟩⟩
  rw [htpc, hhigh, hlow]
  rfl

/-! ### Display -/

/-- Settles O40. -/
theorem clearScreen : Obligations.ClearScreen := by
  intro s ign
  have hexec : exec (.cls ign) s = .next (s.setScreen Screen.clear).pushScreen := rfl
  refine ⟨_, hexec, fun cx cy _ _ => Screen.pix_clear cx cy, ?_, exec_frame hexec⟩
  rw [← Screen.pack_clear]
  rfl

section
variable (s : State) (x y : Reg) (n : Nibble)

/-- The pixels after a draw: the sprite XORed in (R191). -/
theorem State.drawn_pix {cx cy : Nat} (hcx : cx < 64) (hcy : cy < 32) :
    (s.drawn x y n).screen.pix cx cy = (s.screen.pix cx cy ^^ s.spriteBit x y n cx cy) := by
  rw [State.drawn, Canvas.drawRows_pix _ _ _ _ hcx hcy, State.spriteBit_eq]

/-- The collision of a draw: a set pixel under a set bit of the sprite (R191). -/
theorem State.drawn_hit :
    (s.drawn x y n).hit = true ↔
      ∃ cx cy, cx < 64 ∧ cy < 32 ∧ s.screen.pix cx cy = true ∧ s.spriteBit x y n cx cy = true := by
  simp [State.drawn, Canvas.drawRows_hit, State.spriteBit_eq]

/-- The state after DRW (R191). -/
def State.afterDraw : State :=
  ((s.setScreen (s.drawn x y n).screen).setV VF (collisionFlag (s.drawn x y n).hit)).pushScreen

theorem exec_drw : exec (.drw x y n) s = .next (s.afterDraw x y n) := rfl

theorem State.afterDraw_screen : (s.afterDraw x y n).screen = (s.drawn x y n).screen := rfl

theorem State.afterDraw_V (r : Reg) :
    (s.afterDraw x y n).V r = if r = VF then collisionFlag (s.drawn x y n).hit else s.V r :=
  State.setV_V _ _ _ _

theorem collisionFlag_eq_one_iff (hit : Bool) : collisionFlag hit = 1 ↔ hit = true := by
  cases hit <;> decide

end

/-- Settles O41. -/
theorem drawSprite : Obligations.DrawSprite := by
  intro s x y n
  have hVF := s.afterDraw_V x y n 15
  refine ⟨_, exec_drw s x y n, fun cx cy hcx hcy => s.drawn_pix x y n hcx hcy, ?_, fun r hr => ?_, rfl,
    exec_frame (exec_drw s x y n)⟩
  · rw [if_pos rfl] at hVF
    rw [hVF, ← s.drawn_hit]
    cases (s.drawn x y n).hit <;> decide
  · rw [s.afterDraw_V, if_neg hr]

/-- Settles O42: the sprite is XORed in twice, so it cancels; the second collision is with the pixels of the first
draw. -/
theorem drawTwiceRestoresTheScreen : Obligations.DrawTwiceRestoresTheScreen := by
  intro s t t' x y x' y' n ht hscreen hx hy hbytes
  rw [exec_drw] at ht
  cases ht
  rw [State.afterDraw_screen] at hscreen
  have hsprite : ∀ cx cy, t'.spriteBit x' y' n cx cy = s.spriteBit x y n cx cy := by
    intro cx cy
    rw [State.spriteBit_eq, State.spriteBit_eq, hx, hy, hbytes]
  refine ⟨_, exec_drw t' x' y' n, ?_, ?_⟩
  · refine Screen.ext_pix fun cx cy hcx hcy => ?_
    rw [State.afterDraw_screen, State.drawn_pix _ _ _ _ hcx hcy, hscreen, State.drawn_pix _ _ _ _ hcx hcy, hsprite,
      Bool.xor_assoc, Bool.xor_self, Bool.xor_false]
  · rw [State.afterDraw_V, if_pos rfl, collisionFlag_eq_one_iff, State.drawn_hit, hscreen, State.afterDraw_screen]
    simp only [hsprite]

/-! ### Reset and launch -/

section
variable (cfg : Cfg)

theorem resetWith_memoryCanonical : memoryCanonical (State.resetWith cfg) := by
  simp [memoryCanonical, Memory.wf_iff, State.resetWith]

theorem resetWith_haltRecorded : haltRecorded (State.resetWith cfg) := by
  simp [haltRecorded, State.resetWith]

theorem resetWith_indexLow : indexLow (State.resetWith cfg) := by
  simp [indexLow, State.resetWith]

/-- With an empty stack only `pc` is to be bounded (R25). -/
theorem resetWith_flowBounded (h : cfg.romBase.toNat ≤ 0x10FE) : flowBounded (State.resetWith cfg) :=
  ⟨h, fun _ hk => absurd hk (Nat.not_lt_zero _)⟩

end

/-- Settles O15: `Cfg.standard` puts the font low and the program inside memory. -/
theorem resetMeetsTheInvariants : Obligations.ResetMeetsTheInvariants :=
  ⟨resetWith_memoryCanonical _, resetWith_flowBounded _ (by decide), ⟨rfl, by decide⟩, resetWith_indexLow _,
    resetWith_haltRecorded _⟩

/-- Settles O16: every field but the configuration is a constant. -/
theorem resetValues : Obligations.ResetValues := by
  intro cfg
  refine ⟨fun r => ?_, rfl, rfl, rfl, fun k => ?_, rfl, rfl, Screen.pix_clear, rfl, rfl, rfl, rfl, rfl, rfl, rfl⟩
  · simp [State.resetWith, State.V]
  · simp [State.resetWith]

section
variable {s : State}

/-- Loading writes memory and nothing else (R281). -/
theorem State.loadBytes_frame (bytes : List Byte) : ∀ (a : Nat) (s : State),
    sameOutside [.memory] s (State.loadBytes a bytes s) := by
  induction bytes with
  | nil => exact fun a s => sameOutside.refl _ _
  | cons b bytes ih =>
    intro a s
    exact ((s.writeByte_frame a b).trans (ih (a + 1) _)).mono (by simp)

/-- Loading inside memory keeps the canonical form. -/
theorem State.loadBytes_canonical (bytes : List Byte) : ∀ (a : Nat) (s : State), a + bytes.length ≤ memSize →
    memoryCanonical s → memoryCanonical (State.loadBytes a bytes s) := by
  induction bytes with
  | nil => exact fun a s _ h => h
  | cons b bytes ih =>
    intro a s hle h
    rw [List.length_cons] at hle
    exact ih (a + 1) _ (by omega) (State.writeByte_memoryWf b (by omega) h)

/-- The image lies where it is loaded, and every other byte is as before (R281). -/
theorem State.loadBytes_byteAt (bytes : List Byte) : ∀ (a : Nat) (s : State) (c : Nat),
    (State.loadBytes a bytes s).byteAt c =
      if a ≤ c ∧ c < a + bytes.length then bytes.getD (c - a) 0 else s.byteAt c := by
  induction bytes with
  | nil =>
    intro a s c
    rw [if_neg (by simp)]
    rfl
  | cons b bytes ih =>
    intro a s c
    rw [State.loadBytes, ih, State.writeByte_byteAt, List.length_cons]
    by_cases hca : c = a
    · subst hca
      rw [if_neg (by omega), if_pos rfl, if_pos (by omega), Nat.sub_self, List.getD_cons_zero]
    · by_cases hin : a + 1 ≤ c ∧ c < a + 1 + bytes.length
      · have hsub : c - a = (c - (a + 1)) + 1 := by omega
        rw [if_pos hin, if_pos (by omega), hsub, List.getD_cons_succ]
      · rw [if_neg hin, if_neg hca, if_neg (by omega)]

end

/-- The reset image: the font, and zeros (R281). -/
theorem resetWith_byteAt (cfg : Cfg) (a : Nat) : (State.resetWith cfg).byteAt a = resetByte cfg.fontBase a := rfl

theorem resetByte_font (fontBase : Word) (k : Fin 80) :
    resetByte fontBase (fontBase.toNat + k.val) = Config.fontData k := by
  have hk := k.isLt
  rw [resetByte, dif_pos (by omega)]
  congr 1
  apply Fin.ext
  simp

/-- What a launch requires, as numbers (R283). -/
theorem admits_iff (cfg : Cfg) (len : Nat) :
    cfg.admits len = true ↔ cfg.fontBase.toNat + 80 ≤ 4096 ∧ cfg.romBase.toNat + len ≤ 4096 := by
  simp only [Cfg.admits, Bool.and_eq_true, decide_eq_true_eq]

/-- Settles O17: a launch is reset and then the load of an image that fits. -/
theorem launchPlacesFontAndImage : Obligations.LaunchPlacesFontAndImage := by
  intro cfg image
  rw [← admits_iff]
  cases hadmits : cfg.admits image.length with
  | false => simp [launch, hadmits]
  | true =>
    refine ⟨by simp [launch, hadmits], fun s hs => ?_⟩
    obtain ⟨hfont, hrom⟩ := (admits_iff cfg image.length).1 hadmits
    obtain rfl : State.loadBytes cfg.romBase.toNat image (State.resetWith cfg) = s := by
      simpa [launch, hadmits] using hs
    have hbyte := State.loadBytes_byteAt image cfg.romBase.toNat (State.resetWith cfg)
    have hframe := State.loadBytes_frame image cfg.romBase.toNat (State.resetWith cfg)
    have houtside : ∀ a, (∀ j < image.length, a ≠ cfg.romBase.toNat + j) →
        (State.loadBytes cfg.romBase.toNat image (State.resetWith cfg)).byteAt a = resetByte cfg.fontBase a := by
      intro a ha
      rw [hbyte, if_neg, resetWith_byteAt]
      intro hin
      exact ha (a - cfg.romBase.toNat) (by omega) (by omega)
    refine ⟨fun k hk => ?image, fun k hk => ?font, fun a ha hnot => ?zero, hframe, ?canonical, ?flow, ?index, ?halt⟩
    case image =>
      rw [hbyte, if_pos (by omega)]
      simp [hk]
    case font => rw [houtside _ hk, resetByte_font]
    case zero => rw [houtside a ha, resetByte, dif_neg hnot]
    case canonical => exact State.loadBytes_canonical image _ _ hrom (resetWith_memoryCanonical cfg)
    case flow =>
      have hpc : _ = cfg.romBase := hframe .pc (by decide)
      have hreset : flowBounded (State.resetWith cfg) := resetWith_flowBounded cfg (by omega)
      exact ⟨by rw [hpc]; omega, State.stackBounded_of_same hreset.2 (hframe .stack (by decide))⟩
    case index =>
      have hindex : _ = (0 : Word) := hframe .index (by decide)
      rw [indexLow, hindex]
      decide
    case halt =>
      have hrun : _ = RunState.running := hframe .run (by decide)
      exact haltRecorded_of_none (by rw [hrun]; decide) (hframe .haltInfo (by decide))

end Sys2Proof.Machine
